-- ==== Sys2Proof/Word.lean ====
section
/-! DEFINITION. The words of the block: caption units, bytes, code points and styles (spec 00_scope.md R7, R10). -/

namespace Sys2Proof

/-- A 16-bit caption unit, `u[15:8]` the byte transmitted first (30_encoding.md R80, 20_memory.md R62). -/
abbrev CapUnit := BitVec 16

/-- One transmitted byte. -/
abbrev Octet := BitVec 8

/-- The code point of a glyph, 21 bits, 0 the empty sentinel (10_state.md R21). -/
abbrev CodePoint := BitVec 21

/-- The 3-bit style value (10_state.md R29). -/
abbrev Style := BitVec 3

end Sys2Proof
end

