-- ==== Sys2Proof/Syntax.lean ====
section
/-! DEFINITION. The instructions: one constructor per row of spec/opcode_table.json (30_encoding.md R101). -/

namespace Sys2Proof

/-- The classes of 30_encoding.md R86. -/
inductive UnitClass
  | control
  | pac
  | midrow
  | special
  | we
  | basic
  | pad
  | unclassified
  deriving DecidableEq, Repr

/-- One unit, by the row of the opcode map it falls in, with every field of R90 to R97.
`chan` is `s[11]`, `fld` is `s[8]` of the 0x14 group; no handler acts on either, but dedup compares them. -/
inductive Instr
  /-- RCL, Resume caption loading (R141). -/
  | rcl (chan fld : Bool)
  /-- BS, Backspace (R142). -/
  | bs (chan fld : Bool)
  /-- AOF, Alarm off (R143). -/
  | aof (chan fld : Bool)
  /-- AON, Alarm on (R144). -/
  | aon (chan fld : Bool)
  /-- DER, Delete to end of row (R145). -/
  | der (chan fld : Bool)
  /-- RU2, Roll-up 2 rows (R146). -/
  | ru2 (chan fld : Bool)
  /-- RU3, Roll-up 3 rows (R147). -/
  | ru3 (chan fld : Bool)
  /-- RU4, Roll-up 4 rows (R148). -/
  | ru4 (chan fld : Bool)
  /-- FON, Flash on (R149). -/
  | fon (chan fld : Bool)
  /-- RDC, Resume direct captioning (R150). -/
  | rdc (chan fld : Bool)
  /-- TR, Text restart (R151). -/
  | tr (chan fld : Bool)
  /-- RTD, Resume text display (R152). -/
  | rtd (chan fld : Bool)
  /-- EDM, Erase displayed memory (R153). -/
  | edm (chan fld : Bool)
  /-- CR, Carriage return (R154). -/
  | cr (chan fld : Bool)
  /-- ENM, Erase non-displayed memory (R155). -/
  | enm (chan fld : Bool)
  /-- EOC, End of caption (R156). -/
  | eoc (chan fld : Bool)
  /-- CTL17_20, key 0x1720 (R161). -/
  | ctl17_20 (chan : Bool)
  /-- TO1, Tab offset 1 (R158). -/
  | to1 (chan : Bool)
  /-- TO2, Tab offset 2 (R159). -/
  | to2 (chan : Bool)
  /-- TO3, Tab offset 3 (R160). -/
  | to3 (chan : Bool)
  /-- CTL17_24_27, keys 0x1724 + k (R161). -/
  | ctl17_24_27 (chan : Bool) (k : BitVec 2)
  /-- CTL17_28_2F, keys 0x1728 + k (R161). -/
  | ctl17_28_2F (chan : Bool) (k : BitVec 3)
  /-- PAC, Preamble address code (R93, R183). -/
  | pac (chan : Bool) (rs : BitVec 4) (ind : Bool) (a : BitVec 3) (ul : Bool)
  /-- MID, Mid-row style change (R94, R186). -/
  | mid (chan : Bool) (a : BitVec 3) (ul : Bool)
  /-- SPC, Special North-American character (R95, R205). -/
  | spc (chan : Bool) (k : BitVec 4)
  /-- WE1, Western-European set Spanish/Miscellaneous/French (R96, R206). -/
  | we1 (chan : Bool) (k : BitVec 5)
  /-- WE2, Western-European set Portuguese/German/Danish (R96, R207). -/
  | we2 (chan : Bool) (k : BitVec 5)
  /-- TXT_A, basic pair with `s[13] = 1` (R97, R204). -/
  | txtA (c1 c2 : BitVec 7)
  /-- TXT_B, basic pair with `s[14:13] = 10` (R97, R204). -/
  | txtB (c1 c2 : BitVec 7)
  /-- PAD, the padding unit (R122). -/
  | pad
  /-- UNCL, a stripped unit no other row matches, held whole (R89, R127). -/
  | uncl (s : CapUnit)
  deriving DecidableEq, Repr

end Sys2Proof
end

