-- ==== Sys2Proof/WellFormed.lean ====
section
/-! DEFINITION. Which instructions stand for a unit. Every field is a bit vector of its own width, so only the two
rows of the basic pair and the default row leave anything to check. -/

namespace Sys2Proof

/-- The UNCLASSIFIED set of 30_encoding.md R89, by the stripped high byte `H` and low byte `L`, written as R89
lists it and not as the complement of the masks (that the two agree is a statement of its own). -/
def unclassifiedSet (s : CapUnit) : Bool :=
  let h := (s.extractLsb' 8 8).toNat
  let l := (s.extractLsb' 0 8).toNat
  (h ≤ 0x0F && l ≤ 0x7F && s != 0#16)
    || (0x10 ≤ h && h ≤ 0x1F && l ≤ 0x1F)
    || ((h == 0x10 || h == 0x18 || h == 0x16 || h == 0x1E) && 0x20 ≤ l && l ≤ 0x3F)
    || ((h == 0x14 || h == 0x15 || h == 0x17 || h == 0x1C || h == 0x1D || h == 0x1F) && 0x30 ≤ l && l ≤ 0x3F)

/-- A well-formed instruction: TXT_A has `c1[5] = 1` (`s[13]`), TXT_B has `c1[6:5] = 10` (`s[14:13]`) by their
opcode rows (R101), and UNCL holds a stripped unit of R89's set. -/
def Instr.wellFormed : Instr → Bool
  | .txtA c1 _ => c1.getLsbD 5
  | .txtB c1 _ => c1.getLsbD 6 && !c1.getLsbD 5
  | .uncl s => unclassifiedSet s
  | _ => true

end Sys2Proof
end

