-- ==== Sys2Proof/Decode.lean ====
section
/-! DEFINITION. Parity, the classifier, the decoder over raw units, and after it the encoder (30_encoding.md). -/

namespace Sys2Proof

/-! ## Parity (R80 to R85) -/

/-- The number of 1 bits (R10). -/
def popcount {w : Nat} (b : BitVec w) : Nat :=
  ((List.range w).filter b.getLsbD).length

/-- The parity ROM of R82: the 7-bit value with bit 7 set so that the byte has an odd number of 1 bits. -/
def romParity (v : BitVec 7) : Octet :=
  if popcount v % 2 = 0 then v.setWidth 8 ||| 0x80#8 else v.setWidth 8

/-- The high byte `u[15:8]`, transmitted first (20_memory.md R62). -/
def highByte (u : CapUnit) : Octet := u.extractLsb' 8 8

/-- The low byte `u[7:0]`. -/
def lowByte (u : CapUnit) : Octet := u.extractLsb' 0 8

/-- A unit from its two bytes in transmission order (20_memory.md R62). -/
def unitOfBytes (hi lo : Octet) : CapUnit := hi ++ lo

/-- The byte holds the parity its low 7 bits call for (R83). -/
def byteParityOk (b : Octet) : Bool := romParity (b.extractLsb' 0 7) == b

/-- Both bytes pass parity (R83's `ok`). -/
def parityOk (u : CapUnit) : Bool := byteParityOk (highByte u) && byteParityOk (lowByte u)

/-- Both parity bits cleared (R83's `s`). -/
def strip (u : CapUnit) : CapUnit := u &&& 0x7F7F#16

/-- `ValidateAndStrip` (R83). -/
def validateAndStrip (u : CapUnit) : CapUnit × Bool := (strip u, parityOk u)

/-- The raw unit of a stripped one (R104). -/
def addParity (s : CapUnit) : CapUnit :=
  unitOfBytes (romParity (s.extractLsb' 8 7)) (romParity (s.extractLsb' 0 7))

/-! ## Classification (R86) -/

def isControl (s : CapUnit) : Bool :=
  (s &&& 0x7670#16) == 0x1420#16 || (s &&& 0x7770#16) == 0x1720#16

def isPreamble (s : CapUnit) : Bool := (s &&& 0x7040#16) == 0x1040#16

def isMidRow (s : CapUnit) : Bool := (s &&& 0x7770#16) == 0x1120#16

def isSpecial (s : CapUnit) : Bool := (s &&& 0x7770#16) == 0x1130#16

def isWestEu (s : CapUnit) : Bool := (s &&& 0x7660#16) == 0x1220#16

def isBasic (s : CapUnit) : Bool := (s &&& 0x6000#16) != 0#16

/-- The class of a stripped unit, the six predicates in the source's order (R86; the masks are normative, C4). -/
def classify (s : CapUnit) : UnitClass :=
  if isControl s then .control
  else if isPreamble s then .pac
  else if isMidRow s then .midrow
  else if isSpecial s then .special
  else if isWestEu s then .we
  else if isBasic s then .basic
  else if s == 0#16 then .pad
  else .unclassified

/-- The command key of a CONTROL unit, `grp = s[9]` choosing the mask (R91). -/
def controlKey (s : CapUnit) : CapUnit :=
  if s.getLsbD 9 then s &&& 0x777F#16 else s &&& 0x767F#16

/-! ## The decoder: the opcode map of R101 over stripped units -/

/-- The row-select field `(s[10:8] << 1) | s[5]` (R93, R182). -/
def rowSelectField (s : CapUnit) : BitVec 4 := s.extractLsb' 8 3 ++ s.extractLsb' 5 1

/-- The instruction of a stripped unit: the rows of R101 in their order, each by its mask and match. -/
def decodeStripped (s : CapUnit) : Instr :=
  let chan := s.getLsbD 11
  let fld := s.getLsbD 8
  let k14 := s &&& 0x767F#16
  let k17 := s &&& 0x777F#16
  if k14 = 0x1420#16 then .rcl chan fld
  else if k14 = 0x1421#16 then .bs chan fld
  else if k14 = 0x1422#16 then .aof chan fld
  else if k14 = 0x1423#16 then .aon chan fld
  else if k14 = 0x1424#16 then .der chan fld
  else if k14 = 0x1425#16 then .ru2 chan fld
  else if k14 = 0x1426#16 then .ru3 chan fld
  else if k14 = 0x1427#16 then .ru4 chan fld
  else if k14 = 0x1428#16 then .fon chan fld
  else if k14 = 0x1429#16 then .rdc chan fld
  else if k14 = 0x142A#16 then .tr chan fld
  else if k14 = 0x142B#16 then .rtd chan fld
  else if k14 = 0x142C#16 then .edm chan fld
  else if k14 = 0x142D#16 then .cr chan fld
  else if k14 = 0x142E#16 then .enm chan fld
  else if k14 = 0x142F#16 then .eoc chan fld
  else if k17 = 0x1720#16 then .ctl17_20 chan
  else if k17 = 0x1721#16 then .to1 chan
  else if k17 = 0x1722#16 then .to2 chan
  else if k17 = 0x1723#16 then .to3 chan
  else if s &&& 0x777C#16 = 0x1724#16 then .ctl17_24_27 chan (s.extractLsb' 0 2)
  else if s &&& 0x7778#16 = 0x1728#16 then .ctl17_28_2F chan (s.extractLsb' 0 3)
  else if s &&& 0x7040#16 = 0x1040#16 then
    .pac chan (rowSelectField s) (s.getLsbD 4) (s.extractLsb' 1 3) (s.getLsbD 0)
  else if s &&& 0x7770#16 = 0x1120#16 then .mid chan (s.extractLsb' 1 3) (s.getLsbD 0)
  else if s &&& 0x7770#16 = 0x1130#16 then .spc chan (s.extractLsb' 0 4)
  else if s &&& 0x7760#16 = 0x1220#16 then .we1 chan (s.extractLsb' 0 5)
  else if s &&& 0x7760#16 = 0x1320#16 then .we2 chan (s.extractLsb' 0 5)
  else if s &&& 0x2000#16 = 0x2000#16 then .txtA (s.extractLsb' 8 7) (s.extractLsb' 0 7)
  else if s &&& 0x6000#16 = 0x4000#16 then .txtB (s.extractLsb' 8 7) (s.extractLsb' 0 7)
  else if s &&& 0x7F7F#16 = 0x0000#16 then .pad
  else .uncl s

/-- Why the decoder gives no instruction. `parity`: a byte fails odd parity (drop E1, R121).
`truncated`: fewer than two bytes (the block itself receives whole units only, R64). -/
inductive DecodeReject
  | parity
  | truncated
  deriving DecidableEq, Repr

/-- The decoder over raw units: parity first, then the opcode map on the stripped unit (R83, R84, R101). -/
def decode (u : CapUnit) : Except DecodeReject Instr :=
  if parityOk u then .ok (decodeStripped (strip u)) else .error .parity

/-- The decoder over a byte stream, the first byte the unit's high byte (20_memory.md R61, R62). -/
def decodeBytes : List Octet → Except DecodeReject (Instr × List Octet)
  | hi :: lo :: rest =>
    match decode (unitOfBytes hi lo) with
    | .ok i => .ok (i, rest)
    | .error e => .error e
  | _ => .error .truncated

/-! ## The encoder (R103, R104) -/

/-- `b` at bit position `p`. -/
def flagAt (b : Bool) (p : Nat) : CapUnit := if b then 1#16 <<< p else 0#16

/-- A 0x14-group unit: `0x1420 + cmd`, `.F2` sets bit 8, `.C2` sets bit 11 (R103). -/
def control14 (chan fld : Bool) (cmd : BitVec 4) : CapUnit :=
  0x1420#16 ||| cmd.setWidth 16 ||| flagAt fld 8 ||| flagAt chan 11

/-- A 0x17-group unit: `0x1720 + k`, `.C2` sets bit 11 (R103). -/
def control17 (chan : Bool) (k : BitVec 4) : CapUnit :=
  0x1720#16 ||| k.setWidth 16 ||| flagAt chan 11

/-- A basic pair: `(c1 << 8) | c2` (R103). -/
def textPair (c1 c2 : BitVec 7) : CapUnit := (c1.setWidth 16 <<< 8) ||| c2.setWidth 16

/-- The stripped unit of an instruction (R103). -/
def Instr.stripped : Instr → CapUnit
  | .rcl chan fld => control14 chan fld 0x0#4
  | .bs chan fld => control14 chan fld 0x1#4
  | .aof chan fld => control14 chan fld 0x2#4
  | .aon chan fld => control14 chan fld 0x3#4
  | .der chan fld => control14 chan fld 0x4#4
  | .ru2 chan fld => control14 chan fld 0x5#4
  | .ru3 chan fld => control14 chan fld 0x6#4
  | .ru4 chan fld => control14 chan fld 0x7#4
  | .fon chan fld => control14 chan fld 0x8#4
  | .rdc chan fld => control14 chan fld 0x9#4
  | .tr chan fld => control14 chan fld 0xA#4
  | .rtd chan fld => control14 chan fld 0xB#4
  | .edm chan fld => control14 chan fld 0xC#4
  | .cr chan fld => control14 chan fld 0xD#4
  | .enm chan fld => control14 chan fld 0xE#4
  | .eoc chan fld => control14 chan fld 0xF#4
  | .ctl17_20 chan => control17 chan 0x0#4
  | .to1 chan => control17 chan 0x1#4
  | .to2 chan => control17 chan 0x2#4
  | .to3 chan => control17 chan 0x3#4
  | .ctl17_24_27 chan k => control17 chan (0x4#4 ||| k.setWidth 4)
  | .ctl17_28_2F chan k => control17 chan (0x8#4 ||| k.setWidth 4)
  | .pac chan rs ind a ul =>
    ((0x10#16 ||| (rs.setWidth 16 >>> 1)) <<< 8)
      ||| (0x40#16 ||| flagAt (rs.getLsbD 0) 5 ||| flagAt ind 4 ||| (a.setWidth 16 <<< 1) ||| flagAt ul 0)
      ||| flagAt chan 11
  | .mid chan a ul => 0x1120#16 ||| (a.setWidth 16 <<< 1) ||| flagAt ul 0 ||| flagAt chan 11
  | .spc chan k => 0x1130#16 ||| k.setWidth 16 ||| flagAt chan 11
  | .we1 chan k => 0x1220#16 ||| k.setWidth 16 ||| flagAt chan 11
  | .we2 chan k => 0x1320#16 ||| k.setWidth 16 ||| flagAt chan 11
  | .txtA c1 c2 => textPair c1 c2
  | .txtB c1 c2 => textPair c1 c2
  | .pad => 0#16
  | .uncl s => s

/-- The raw unit of an instruction: its stripped unit with parity added (R104). -/
def encode (i : Instr) : CapUnit := addParity i.stripped

/-- The raw unit's bytes in transmission order (20_memory.md R62). -/
def encodeBytes (i : Instr) : List Octet := [highByte (encode i), lowByte (encode i)]

/-! ## The opcode table as data -/

/-- The `mask` column of R101's row for an instruction. UNCL, the default row, has mask 0. -/
def Instr.rowMask : Instr → CapUnit
  | .rcl _ _ | .bs _ _ | .aof _ _ | .aon _ _ | .der _ _ | .ru2 _ _ | .ru3 _ _ | .ru4 _ _ => 0x767F#16
  | .fon _ _ | .rdc _ _ | .tr _ _ | .rtd _ _ | .edm _ _ | .cr _ _ | .enm _ _ | .eoc _ _ => 0x767F#16
  | .ctl17_20 _ | .to1 _ | .to2 _ | .to3 _ => 0x777F#16
  | .ctl17_24_27 _ _ => 0x777C#16
  | .ctl17_28_2F _ _ => 0x7778#16
  | .pac _ _ _ _ _ => 0x7040#16
  | .mid _ _ _ | .spc _ _ => 0x7770#16
  | .we1 _ _ | .we2 _ _ => 0x7760#16
  | .txtA _ _ => 0x2000#16
  | .txtB _ _ => 0x6000#16
  | .pad => 0x7F7F#16
  | .uncl _ => 0#16

/-- The `match` column of R101's row for an instruction. -/
def Instr.rowMatch : Instr → CapUnit
  | .rcl _ _ => 0x1420#16
  | .bs _ _ => 0x1421#16
  | .aof _ _ => 0x1422#16
  | .aon _ _ => 0x1423#16
  | .der _ _ => 0x1424#16
  | .ru2 _ _ => 0x1425#16
  | .ru3 _ _ => 0x1426#16
  | .ru4 _ _ => 0x1427#16
  | .fon _ _ => 0x1428#16
  | .rdc _ _ => 0x1429#16
  | .tr _ _ => 0x142A#16
  | .rtd _ _ => 0x142B#16
  | .edm _ _ => 0x142C#16
  | .cr _ _ => 0x142D#16
  | .enm _ _ => 0x142E#16
  | .eoc _ _ => 0x142F#16
  | .ctl17_20 _ => 0x1720#16
  | .to1 _ => 0x1721#16
  | .to2 _ => 0x1722#16
  | .to3 _ => 0x1723#16
  | .ctl17_24_27 _ _ => 0x1724#16
  | .ctl17_28_2F _ _ => 0x1728#16
  | .pac _ _ _ _ _ => 0x1040#16
  | .mid _ _ _ => 0x1120#16
  | .spc _ _ => 0x1130#16
  | .we1 _ _ => 0x1220#16
  | .we2 _ _ => 0x1320#16
  | .txtA _ _ => 0x2000#16
  | .txtB _ _ => 0x4000#16
  | .pad => 0#16
  | .uncl _ => 0#16

/-- The `class` column of R101's row for an instruction. -/
def Instr.unitClass : Instr → UnitClass
  | .rcl _ _ | .bs _ _ | .aof _ _ | .aon _ _ | .der _ _ | .ru2 _ _ | .ru3 _ _ | .ru4 _ _ => .control
  | .fon _ _ | .rdc _ _ | .tr _ _ | .rtd _ _ | .edm _ _ | .cr _ _ | .enm _ _ | .eoc _ _ => .control
  | .ctl17_20 _ | .to1 _ | .to2 _ | .to3 _ | .ctl17_24_27 _ _ | .ctl17_28_2F _ _ => .control
  | .pac _ _ _ _ _ => .pac
  | .mid _ _ _ => .midrow
  | .spc _ _ => .special
  | .we1 _ _ | .we2 _ _ => .we
  | .txtA _ _ | .txtB _ _ => .basic
  | .pad => .pad
  | .uncl _ => .unclassified

/-! ## The host's table words -/

/-- The raw unit of a word numbered as spec/opcode_table.json numbers it. The table numbers STRIPPED units (R101),
so bits 15 and 7 of the word are not read, and the unit the hardware carries has parity there (R104);
every bit above `nbits` is 0. -/
def tableUnit (nbits w : Nat) : CapUnit := addParity (strip (BitVec.ofNat 16 (w % 2 ^ nbits)))

/-- The instruction the decoder reads from a table word. -/
def decodeTableWord (nbits w : Nat) : Option Instr :=
  match decode (tableUnit nbits w) with
  | .ok i => some i
  | .error _ => none

end Sys2Proof
end

