-- ==== Sys2Proof/Config.lean ====
section
/-! DEFINITION. The implementation parameters of 00_scope.md R9, as one record. Their default values stand in
Machine/Rom.lean. The spec leaves no value free ("No behaviour of the block is given any value",
93_implementation_defined.md section 1), so there is no opaque constant. -/

namespace Sys2Proof

/-- `PRE_MODE_POLICY` (R9, D6): what a buffer command does while no active buffer exists. -/
inductive PreModePolicy
  | ignore
  | fault
  deriving DecidableEq, Repr

/-- `PAC_INVALID_ROW_POLICY` (R9, D10): what a PAC does whose row select has no row. -/
inductive PacInvalidRowPolicy
  | ignore
  | refuse
  deriving DecidableEq, Repr

/-- The parameters of the block (00_scope.md R9). They are constants of an instance: no unit and no reset
writes them (10_state.md R38, 70_reset_and_hazards.md R291). -/
structure Params where
  /-- `CHAR_TABLE`, the 176-entry character ROM (R8, R214). -/
  charTable : List CodePoint
  /-- `ROW_MAP`, 16 entries: an internal row 0..14, or `none` for INVALID (R181). -/
  rowMap : List (Option Nat)
  /-- `REPLACEMENT_GLYPH` (R213). -/
  replacementGlyph : CodePoint
  /-- `PRE_MODE_POLICY` (R163). -/
  preModePolicy : PreModePolicy
  /-- `CLEAR_RESETS_DISPLAY_STATE` (R56). -/
  clearResetsDisplayState : Bool
  /-- `TAB_CLAMP` (R162). -/
  tabClamp : Bool
  /-- `PAC_INVALID_ROW_POLICY` (R184). -/
  pacInvalidRowPolicy : PacInvalidRowPolicy
  /-- `EMPTY_CELL_TEXT` (R234). -/
  emptyCellText : List CodePoint
  /-- `LINE_BREAK` (R235). -/
  lineBreak : List CodePoint
  /-- `HAS_CHANGED_OUTPUT` (R130). -/
  hasChangedOutput : Bool
  /-- `ENVELOPE_MIN_HEADER`, in bytes (R255). -/
  envelopeMinHeader : Nat
  deriving DecidableEq, Repr

end Sys2Proof
end

