-- ==== Sys2Proof/Machine/Rom.lean ====
section
/-! DEFINITION. The constant tables and the default parameters of the block (10_state.md R38, 00_scope.md R9). -/

namespace Sys2Proof

/-! ## The character ROM, 11 blocks of 16 (43_text.md R214, R216)

The spec marks every glyph of this table as general knowledge and makes the table a parameter (D14); log entry 3. -/

/-- Basic North-American, bytes 0x20..0x2F (R214, R216). -/
def glyphsBasic2 : List CodePoint :=
  [0x0020#21, 0x0021#21, 0x0022#21, 0x0023#21, 0x0024#21, 0x0025#21, 0x0026#21, 0x0027#21,
   0x0028#21, 0x0029#21, 0x00E1#21, 0x002B#21, 0x002C#21, 0x002D#21, 0x002E#21, 0x002F#21]

/-- Basic North-American, bytes 0x30..0x3F (R214, R216). -/
def glyphsBasic3 : List CodePoint :=
  [0x0030#21, 0x0031#21, 0x0032#21, 0x0033#21, 0x0034#21, 0x0035#21, 0x0036#21, 0x0037#21,
   0x0038#21, 0x0039#21, 0x003A#21, 0x003B#21, 0x003C#21, 0x003D#21, 0x003E#21, 0x003F#21]

/-- Basic North-American, bytes 0x40..0x4F (R214, R216). -/
def glyphsBasic4 : List CodePoint :=
  [0x0040#21, 0x0041#21, 0x0042#21, 0x0043#21, 0x0044#21, 0x0045#21, 0x0046#21, 0x0047#21,
   0x0048#21, 0x0049#21, 0x004A#21, 0x004B#21, 0x004C#21, 0x004D#21, 0x004E#21, 0x004F#21]

/-- Basic North-American, bytes 0x50..0x5F (R214, R216). -/
def glyphsBasic5 : List CodePoint :=
  [0x0050#21, 0x0051#21, 0x0052#21, 0x0053#21, 0x0054#21, 0x0055#21, 0x0056#21, 0x0057#21,
   0x0058#21, 0x0059#21, 0x005A#21, 0x005B#21, 0x00E9#21, 0x005D#21, 0x00ED#21, 0x00F3#21]

/-- Basic North-American, bytes 0x60..0x6F (R214, R216). -/
def glyphsBasic6 : List CodePoint :=
  [0x00FA#21, 0x0061#21, 0x0062#21, 0x0063#21, 0x0064#21, 0x0065#21, 0x0066#21, 0x0067#21,
   0x0068#21, 0x0069#21, 0x006A#21, 0x006B#21, 0x006C#21, 0x006D#21, 0x006E#21, 0x006F#21]

/-- Basic North-American, bytes 0x70..0x7F (R214, R216). -/
def glyphsBasic7 : List CodePoint :=
  [0x0070#21, 0x0071#21, 0x0072#21, 0x0073#21, 0x0074#21, 0x0075#21, 0x0076#21, 0x0077#21,
   0x0078#21, 0x0079#21, 0x007A#21, 0x00E7#21, 0x00F7#21, 0x00D1#21, 0x00F1#21, 0x2588#21]

/-- Special North-American, 0x1130..0x113F (R214, R216). -/
def glyphsSpecial : List CodePoint :=
  [0x00AE#21, 0x00B0#21, 0x00BD#21, 0x00BF#21, 0x2122#21, 0x00A2#21, 0x00A3#21, 0x266A#21,
   0x00E0#21, 0x00A0#21, 0x00E8#21, 0x00E2#21, 0x00EA#21, 0x00EE#21, 0x00F4#21, 0x00FB#21]

/-- Extended Spanish and Miscellaneous, 0x1220..0x122F (R214, R216). -/
def glyphsSpanish : List CodePoint :=
  [0x00C1#21, 0x00C9#21, 0x00D3#21, 0x00DA#21, 0x00DC#21, 0x00FC#21, 0x2018#21, 0x00A1#21,
   0x002A#21, 0x2019#21, 0x2014#21, 0x00A9#21, 0x2120#21, 0x2022#21, 0x201C#21, 0x201D#21]

/-- Extended French, 0x1230..0x123F (R214, R216). -/
def glyphsFrench : List CodePoint :=
  [0x00C0#21, 0x00C2#21, 0x00C7#21, 0x00C8#21, 0x00CA#21, 0x00CB#21, 0x00EB#21, 0x00CE#21,
   0x00CF#21, 0x00EF#21, 0x00D4#21, 0x00D9#21, 0x00F9#21, 0x00DB#21, 0x00AB#21, 0x00BB#21]

/-- Portuguese, 0x1320..0x132F (R214, R216). -/
def glyphsPortuguese : List CodePoint :=
  [0x00C3#21, 0x00E3#21, 0x00CD#21, 0x00CC#21, 0x00EC#21, 0x00D2#21, 0x00F2#21, 0x00D5#21,
   0x00F5#21, 0x007B#21, 0x007D#21, 0x005C#21, 0x005E#21, 0x005F#21, 0x007C#21, 0x007E#21]

/-- German and Danish, 0x1330..0x133F (R214, R216). -/
def glyphsGerman : List CodePoint :=
  [0x00C4#21, 0x00E4#21, 0x00D6#21, 0x00F6#21, 0x00DF#21, 0x00A5#21, 0x00A4#21, 0x00A6#21,
   0x00C5#21, 0x00E5#21, 0x00D8#21, 0x00F8#21, 0x250C#21, 0x2510#21, 0x2514#21, 0x2518#21]

/-- The default `CHAR_TABLE` (R214). -/
def defaultCharTable : List CodePoint :=
  glyphsBasic2 ++ glyphsBasic3 ++ glyphsBasic4 ++ glyphsBasic5 ++ glyphsBasic6 ++ glyphsBasic7 ++ glyphsSpecial
    ++ glyphsSpanish ++ glyphsFrench ++ glyphsPortuguese ++ glyphsGerman

/-- The default `ROW_MAP` by row select 0..15, `none` for INVALID (42_preamble_midrow.md R181). -/
def defaultRowMap : List (Option Nat) :=
  [some 4, none, some 14, some 13, some 12, some 11, some 3, some 2,
   some 1, some 0, some 10, some 9, some 8, some 7, some 6, some 5]

/-- The defaults of 00_scope.md R9. -/
def Params.default : Params where
  charTable := defaultCharTable
  rowMap := defaultRowMap
  replacementGlyph := 0xFFFD#21
  preModePolicy := .ignore
  clearResetsDisplayState := false
  tabClamp := true
  pacInvalidRowPolicy := .ignore
  emptyCellText := []
  lineBreak := [0x000A#21]
  hasChangedOutput := true
  envelopeMinHeader := 3

/-- A Unicode scalar value (R9's type of `CHAR_TABLE` and `REPLACEMENT_GLYPH`; R21). -/
def isScalar (c : CodePoint) : Bool :=
  c.toNat ≤ 0x10FFFF && !(0xD800 ≤ c.toNat && c.toNat ≤ 0xDFFF)

/-- The parameters have the types R9 gives them: 176 scalar values, 16 rows in 0..14 or INVALID, scalar values in
the replacement glyph and in the two strings. -/
abbrev Params.Legal (p : Params) : Prop :=
  p.charTable.length = 176 ∧ p.charTable.all isScalar = true
    ∧ p.rowMap.length = 16 ∧ (∀ r, some r ∈ p.rowMap → r < 15)
    ∧ isScalar p.replacementGlyph = true
    ∧ p.emptyCellText.all isScalar = true ∧ p.lineBreak.all isScalar = true

/-- `Lookup(idx)`: the character ROM, or the replacement glyph out of its range (43_text.md R213). -/
def Params.lookup (p : Params) (idx : Nat) : CodePoint := p.charTable.getD idx p.replacementGlyph

/-- `ROW_MAP[rs]`, `none` for INVALID (42_preamble_midrow.md R181, R182). -/
def Params.rowOf (p : Params) (rs : BitVec 4) : Option Nat := p.rowMap.getD rs.toNat none

/-- The width of the snapshot port's `Col` (45_snapshot.md R238): 5 bits under `TAB_CLAMP`, else at least the 6 of
41_control.md R162. How many further bits is not said: `extra` is any number of them (log entry 14). -/
def Params.colBits (p : Params) (extra : Nat) : Nat := if p.tabClamp then 5 else 6 + extra

end Sys2Proof
end

