-- ==== Sys2Proof/Machine/State.lean ====
section
/-! DEFINITION. The state of the block as plain data (10_state.md), reset, and the reasons a step can stop. -/

namespace Sys2Proof.Machine

/-- A Cell of a frame buffer (R21). -/
structure Cell where
  cp : CodePoint
  style : Style
  ul : Bool
  deriving DecidableEq, Repr

/-- `EMPTY`, what every clear writes (R22). -/
def Cell.empty : Cell := ⟨0#21, 0#3, false⟩

/-- The cells of one frame buffer as (32 * row + column, Cell) pairs, addresses strictly rising, no EMPTY listed
(R23, R50; log entry 6). An address with no entry reads EMPTY, the buffer's contents at reset (R39). -/
abbrev Memory := List (Nat × Cell)

/-- A buffer's DisplayState (R24). Rows and columns are naturals: no cursor arithmetic wraps (R10, R135). -/
structure DisplayState where
  rollupDepth : Nat
  row : Nat
  col : Nat
  deriving DecidableEq, Repr

/-- A frame buffer: its cells and its embedded DisplayState (R23). -/
structure FrameBuffer where
  cells : Memory
  ds : DisplayState
  deriving DecidableEq, Repr

/-- The two buffers, as `B` in `buf(S, B)` (R11). -/
inductive BufSel
  | front
  | back
  deriving DecidableEq, Repr

/-- The output ports of the step just taken (40_decode_step.md R129 to R132). The spec does not store them
(R33); they stand in the state because a step answers nothing else. `valid` says that a decode step has been
taken: without one the outputs are not defined (R133; log entry 4). -/
structure Outputs where
  valid : Bool
  ready : Bool
  err : Bool
  changed : Bool
  deriving DecidableEq, Repr

/-- What the host can present between two steps: a raw unit on the `unit` port, or `rst` (R132; log entry 5). -/
inductive PortInput
  | unit (u : CapUnit)
  | rst
  deriving DecidableEq, Repr

/-- The state record of R20 (`front` to `n`), with the parameters of the instance, the output ports of the last
step and the input still to be consumed beside it (log entries 1, 4, 5). -/
structure State where
  /-- The displayed frame buffer (R20, R25). -/
  front : FrameBuffer
  /-- The staged frame buffer (R20, R25). -/
  back : FrameBuffer
  /-- The active buffer, `none` before any mode is established (R26). -/
  active : Option BufSel
  /-- The live cursor row, bottom-up (R27). -/
  row : Nat
  /-- The live cursor column (R28). -/
  col : Nat
  /-- The style of the next written character (R29). -/
  style : Style
  /-- The underline attribute of the next written character (R30). -/
  underline : Bool
  /-- The last recorded stripped unit (R31). -/
  last : CapUnit
  /-- The number of units consumed since reset (R34). -/
  n : Nat
  /-- The instance's parameters, never written (R9, R291). -/
  params : Params
  /-- The output ports (R132). -/
  out : Outputs
  /-- The input stream still to be consumed, the next first (R50(3), R61). -/
  input : List PortInput
  deriving DecidableEq, Repr

def DisplayState.zero : DisplayState := ⟨0, 0, 0⟩

/-- A buffer with every cell EMPTY and a zero DisplayState (R39). -/
def FrameBuffer.empty : FrameBuffer := ⟨[], DisplayState.zero⟩

/-- The outputs before any decode step: not defined, so `valid` is false (R133; log entry 4). -/
def Outputs.undefined : Outputs := ⟨false, false, false, false⟩

/-- The state of R39 for an instance with parameters `p`. -/
def State.resetWith (p : Params) : State where
  front := FrameBuffer.empty
  back := FrameBuffer.empty
  active := none
  row := 0
  col := 0
  style := 0#3
  underline := false
  last := 0#16
  n := 0
  params := p
  out := Outputs.undefined
  input := []

/-- The block right after reset (R39), with the default parameters of R9 and nothing presented yet. -/
def State.reset : State := State.resetWith Params.default

/-- The faults of R273. -/
inductive Fault
  /-- `Fault(PRE_MODE_BUFFER_COMMAND)`: raised by BS, DER, CR, TO1, TO2 and TO3 with no active buffer, only when the
  parameter `PRE_MODE_POLICY` is `fault` (R163). Safe: the machine stops and nothing is claimed of the block. -/
  | preModeBufferCommand
  deriving DecidableEq, Repr

/-- The refusals: R273's, the host's, and the absence of a step. -/
inductive Refusal
  /-- Raised by no meaning: an arm of `exec` with no meaning yet. Safe. -/
  | notModelled (mnemonic : String)
  /-- `Refuse(PAC_ROW_INVALID)`: raised by PAC when its row select has no row, only when the parameter
  `PAC_INVALID_ROW_POLICY` is `refuse` (R184). Safe: the model gives the unit no meaning. -/
  | pacRowInvalid
  /-- Raised by `step` alone, when neither a unit nor `rst` is presented: the spec has no idle step (R133, U14).
  Safe: no step is claimed. -/
  | noUnit
  deriving DecidableEq, Repr

end Sys2Proof.Machine
end

