-- ==== Sys2Proof/Machine/Ops.lean ====
section
/-! DEFINITION. The named operations over cells, buffers and registers (20_memory.md), and what the decode step does
around an instruction (40_decode_step.md). The block takes no exception and returns from none (60_exceptions.md
R270, R275), so there is no exception entry here. -/

namespace Sys2Proof.Machine

/-! ## Cells -/

/-- What an address with no entry reads as: EMPTY, the contents at reset (R39). -/
def Memory.unlisted : Cell := Cell.empty

/-- The cell at an address. -/
def Memory.get : Memory → Nat → Cell
  | [], _ => Memory.unlisted
  | (k', v) :: m, k => if k' = k then v else Memory.get m k

/-- The list without the entries of an address. -/
def Memory.erase (m : Memory) (k : Nat) : Memory := m.filter fun e => e.1 != k

/-- The list with an entry put before the first larger address. -/
def Memory.insert : Memory → Nat → Cell → Memory
  | [], k, v => [(k, v)]
  | (k', v') :: m, k, v => if k < k' then (k, v) :: (k', v') :: m else (k', v') :: Memory.insert m k v

/-- The cell at an address replaced; writing what an unlisted address reads as removes the entry. -/
def Memory.set (m : Memory) (k : Nat) (v : Cell) : Memory :=
  if v = Memory.unlisted then Memory.erase m k else Memory.insert (Memory.erase m k) k v

/-- The canonical form: addresses strictly rising, all of a 15 x 32 buffer, no entry equal to what an unlisted
address reads as. -/
abbrev Memory.wf (m : Memory) : Prop :=
  m.Pairwise (fun a b => a.1 < b.1) ∧ ∀ e ∈ m, e.1 < 480 ∧ e.2 ≠ Memory.unlisted

/-- `(r, c)` is a cell of a buffer (R52). -/
abbrev inRange (r c : Nat) : Prop := r < 15 ∧ c < 32

/-- The address of cell `(r, c)` in a buffer's list. -/
def cellAddr (r c : Nat) : Nat := 32 * r + c

/-- A buffer's cells while a step writes them, with the OR of the `chg` results so far (R54, R120). -/
structure Writer where
  cells : Memory
  chg : Bool
  deriving DecidableEq, Repr

/-- `CellWrite` on one buffer (R54): out of range nothing, else the cell replaced and its inequality noted. -/
def Writer.write (w : Writer) (r c : Nat) (v : Cell) : Writer :=
  if inRange r c then
    ⟨Memory.set w.cells (cellAddr r c) v, w.chg || (Memory.get w.cells (cellAddr r c) != v)⟩
  else w

/-- `ClearCells` (R55): EMPTY to every in-range cell `(r, c)` with `c0 <= c < c1`. -/
def Writer.clearCells (w : Writer) (r c0 c1 : Nat) : Writer :=
  ((List.range 32).filter fun c => c0 ≤ c && c < c1).foldl (fun w c => w.write r c Cell.empty) w

/-- `ClearRow` (R55). -/
def Writer.clearRow (w : Writer) (r : Nat) : Writer := w.clearCells r 0 32

/-- The cells of `ClearBuffer` (R56): every row cleared. -/
def Writer.clearAll (w : Writer) : Writer := (List.range 15).foldl Writer.clearRow w

/-- One row of R59's loop: row `dst` takes the cells of row `src`, column by column. -/
def Writer.copyRow (w : Writer) (dst src : Nat) : Writer :=
  (List.range 32).foldl (fun w c => w.write dst c (Memory.get w.cells (cellAddr src c))) w

/-- R59's loop `for k = K down to 1`: row `row + k` takes row `row + k - 1`. -/
def Writer.copyUp (w : Writer) (row : Nat) : Nat → Writer
  | 0 => w
  | k + 1 => Writer.copyUp (w.copyRow (row + (k + 1)) (row + k)) row k

/-- `RollupShift` (R59): the guard covers the copies and the clear. -/
def Writer.rollupShift (w : Writer) (row depth : Nat) : Writer :=
  if row + depth > 15 ∨ row + depth ≤ 0 then w else (w.copyUp row (depth - 1)).clearRow row

/-! ## Buffers and registers -/

/-- `buf(S, B)` (R11). -/
def State.buf (s : State) : BufSel → FrameBuffer
  | .front => s.front
  | .back => s.back

/-- Buffer `B` replaced; the other is untouched (R25). -/
def State.setBuf (s : State) (b : BufSel) (fb : FrameBuffer) : State :=
  match b with
  | .front => { s with front := fb }
  | .back => { s with back := fb }

/-- The DisplayState of buffer `B` replaced. -/
def State.setDs (s : State) (b : BufSel) (ds : DisplayState) : State :=
  s.setBuf b { s.buf b with ds := ds }

/-- `buf(S, B).ds.RollupDepth <- d`. -/
def State.setDepth (s : State) (b : BufSel) (d : Nat) : State :=
  s.setDs b { (s.buf b).ds with rollupDepth := d }

/-- `buf(S, B).ds.Col <- c`. -/
def State.setDsCol (s : State) (b : BufSel) (c : Nat) : State :=
  s.setDs b { (s.buf b).ds with col := c }

/-- `buf(S, B).ds.Row <- r; buf(S, B).ds.Col <- c`. -/
def State.setDsCursor (s : State) (b : BufSel) (r c : Nat) : State :=
  s.setDs b { (s.buf b).ds with row := r, col := c }

/-- `CellRead` (R53), `none` for ABSENT. -/
def State.cellRead (s : State) (b : BufSel) (r c : Nat) : Option Cell :=
  if inRange r c then some (Memory.get (s.buf b).cells (cellAddr r c)) else none

/-- Buffer `B`'s cells edited, every `chg` of the edit ORed into the step's `changed` (R120, R130). -/
def State.edit (s : State) (b : BufSel) (f : Writer → Writer) : State :=
  let w := f ⟨(s.buf b).cells, s.out.changed⟩
  { s.setBuf b { s.buf b with cells := w.cells } with out := { s.out with changed := w.chg } }

/-- `CellWrite` (R54). -/
def State.cellWrite (s : State) (b : BufSel) (r c : Nat) (v : Cell) : State :=
  s.edit b fun w => w.write r c v

/-- `ClearCells` (R55). -/
def State.clearCells (s : State) (b : BufSel) (r c0 c1 : Nat) : State :=
  s.edit b fun w => w.clearCells r c0 c1

/-- `ClearBuffer` (R56). -/
def State.clearBuffer (s : State) (b : BufSel) : State :=
  let s1 := s.edit b Writer.clearAll
  if s.params.clearResetsDisplayState then s1.setDs b DisplayState.zero else s1

/-- `Swap` (R58): cells and DisplayState exchanged, no cell change reported. -/
def State.swap (s : State) : State := { s with front := s.back, back := s.front }

/-- `RollupShift` (R59). -/
def State.rollupShift (s : State) (b : BufSel) (row depth : Nat) : State :=
  s.edit b fun w => w.rollupShift row depth

/-- The body of BS (R142), which is also `ImplicitBackspace` (43_text.md R203): the column back by one, stopping at
0, and the cell there cleared. -/
def State.backspace (s : State) (b : BufSel) : State :=
  let s1 := { s with col := s.col - 1 }
  s1.cellWrite b s1.row s1.col Cell.empty

/-- `WriteChar(idx)` into buffer `B` (43_text.md R201). -/
def State.writeChar (s : State) (b : BufSel) (idx : Nat) : State :=
  let s1 := s.cellWrite b s.row s.col ⟨s.params.lookup idx, s.style, s.underline⟩
  { s1 with col := min (s1.col + 1) 31 }

/-- `S.active <- B` with `buf(S, B).ds.RollupDepth <- d`: what RCL, RDC and RU2 to RU4 share (41_control.md R140). -/
def State.establish (s : State) (b : BufSel) (d : Nat) : State :=
  { s with active := some b }.setDepth b d

/-- `return (ready, 0)` (R11, R131). -/
def State.ret (s : State) (ready : Bool) : State :=
  { s with out := { s.out with ready := ready, err := false } }

/-! ## Shared control of the meanings -/

/-- `RequireActive()` (41_control.md R163): the command on the active buffer, or what `PRE_MODE_POLICY` says. -/
def requireActive (s : State) (k : BufSel → State) : Host.Outcome State Fault Refusal :=
  match s.active with
  | some b => .next (k b)
  | none =>
    match s.params.preModePolicy with
    | .ignore => .next (s.ret false)
    | .fault => .fault .preModeBufferCommand

/-- Step 6 of the decode step (40_decode_step.md R126): with no active buffer a non-control unit is dropped. -/
def whenActive (s : State) (k : BufSel → Host.Outcome State Fault Refusal) : Host.Outcome State Fault Refusal :=
  match s.active with
  | some b => k b
  | none => .next (s.ret false)

/-- `PacInvalidRow()` (42_preamble_midrow.md R184). -/
def pacInvalidRow (s : State) : Host.Outcome State Fault Refusal :=
  match s.params.pacInvalidRowPolicy with
  | .ignore => .next (s.ret false)
  | .refuse => .refused .pacRowInvalid

/-! ## The decode step around an instruction -/

/-- The start of a decode step (R120): the unit consumed, `S.n` advanced, the outputs at (false, 0) with no change. -/
def State.beginStep (s : State) : State :=
  { s with n := s.n + 1, input := s.input.tail, out := ⟨true, false, false, false⟩ }

/-- Step 3 (R123): a CONTROL or SPECIAL unit equal, bit for bit, to the last recorded one. -/
def State.isDuplicate (s : State) (st : CapUnit) : Bool :=
  (classify st == .control || classify st == .special) && st == s.last

/-- Step 4 (R124): the stripped unit recorded; padding never reaches step 4 (R122). -/
def State.record (s : State) (st : CapUnit) : State :=
  if st = 0#16 then s else { s with last := st }

/-- What becomes of a raw unit before any instruction runs (R121 to R124). -/
inductive Admission
  /-- Dropped: parity failure (E1) or duplicate (E3); the state is the one after `beginStep`. -/
  | drop
  /-- The instruction runs on the state with the unit recorded. -/
  | run (i : Instr) (s : State)
  deriving DecidableEq, Repr

/-- Steps 1 to 4 of R120 on the state after `beginStep`. -/
def firstChecks (u : CapUnit) (s : State) : Admission :=
  match decode u with
  | .error _ => .drop
  | .ok i => if s.isDuplicate (strip u) then .drop else .run i (s.record (strip u))

/-- `rst` (70_reset_and_hazards.md R290, R291): every state element to R39's value, the parameters kept, the event
consumed. -/
def State.takeReset (s : State) : State :=
  { State.resetWith s.params with input := s.input.tail }

/-- A unit placed where the next step takes it. -/
def State.withNextUnit (s : State) (u : CapUnit) : State := { s with input := .unit u :: s.input.tail }

end Sys2Proof.Machine
end

