-- ==== Sys2Proof/Machine/Flags.lean ====
section
/-! DEFINITION. The per-step outputs: the block has no flags or condition codes (10_state.md R33). -/

namespace Sys2Proof.Machine

/-- The readiness of a text unit that reached its handler: the active buffer's RollupDepth is positive (R202). -/
def textReady (s : State) (b : BufSel) : Bool := decide (0 < (s.buf b).ds.rollupDepth)

/-- The `ready` port, not defined before a decode step (R129, R133). -/
def State.readyPort (s : State) : Option Bool := if s.out.valid then some s.out.ready else none

/-- The `err` port (R131, R133). -/
def State.errPort (s : State) : Option Bool := if s.out.valid then some s.out.err else none

/-- The `changed` port, present iff `HAS_CHANGED_OUTPUT` (R130). -/
def State.changedPort (s : State) : Option Bool :=
  if s.out.valid && s.params.hasChangedOutput then some s.out.changed else none

end Sys2Proof.Machine
end

