-- ==== Sys2Proof/Machine/Operands.lean ====
section
/-! DEFINITION. Operand assembly of every unit kind (30_encoding.md R93 to R98): all fields unsigned, none
sign-extended. -/

namespace Sys2Proof.Machine

/-- The PAC column: 0, or the indent in steps of 4 (R93, 42_preamble_midrow.md R185). -/
def pacCol (ind : Bool) (a : BitVec 3) : Nat := if ind then 4 * a.toNat else 0

/-- The PAC style: the attribute field, or plain (0) for the indent form (R93, R185). -/
def pacStyle (ind : Bool) (a : BitVec 3) : Style := if ind then 0#3 else a

/-- The character index of a SPECIAL unit (R95). -/
def specialIndex (k : BitVec 4) : Nat := 0x60 + k.toNat

/-- The character index of a WE unit of set 0 (R96). -/
def westEuIndex1 (k : BitVec 5) : Nat := 0x70 + k.toNat

/-- The character index of a WE unit of set 1 (R96). -/
def westEuIndex2 (k : BitVec 5) : Nat := 0x90 + k.toNat

/-- The character index of a basic byte (R97). -/
def basicIndex (c : BitVec 7) : Nat := c.toNat - 0x20

/-- The low byte of a basic pair carries a character (R97). -/
def hasSecondChar (c2 : BitVec 7) : Bool := 0x20 ≤ c2.toNat && c2.toNat < 0x80

/-- The column after a tab of `n` (41_control.md R162). -/
def tabTarget (p : Params) (col n : Nat) : Nat := if p.tabClamp then min (col + n) 31 else col + n

end Sys2Proof.Machine
end

