-- ==== Sys2Proof/Machine/Cursor.lean ====
section
/-! DEFINITION. The cursor and row commands (41_control.md section 4), all on the active buffer (R163). -/

namespace Sys2Proof.Machine

/-- CR (R154): column 0, roll-up at the cursor row with the active buffer's depth, its `ds.Col` 0. -/
def execCr (_chan _fld : Bool) (s : State) : Host.Outcome State Fault Refusal :=
  requireActive s fun b =>
    let s1 := { s with col := 0 }
    let s2 := s1.rollupShift b s1.row (s1.buf b).ds.rollupDepth
    (s2.setDsCol b 0).ret false

/-- BS (R142). -/
def execBs (_chan _fld : Bool) (s : State) : Host.Outcome State Fault Refusal :=
  requireActive s fun b => (s.backspace b).ret false

/-- DER (R145): the cells from the cursor to the end of its row cleared. -/
def execDer (_chan _fld : Bool) (s : State) : Host.Outcome State Fault Refusal :=
  requireActive s fun b => (s.clearCells b s.row s.col 32).ret false

/-- `TabOffset(n)` (R162). -/
def tabOffset (n : Nat) (s : State) : Host.Outcome State Fault Refusal :=
  requireActive s fun b =>
    let c := tabTarget s.params s.col n
    ({ s with col := c }.setDsCol b c).ret false

/-- TO1 (R158). -/
def execTo1 (_chan : Bool) (s : State) : Host.Outcome State Fault Refusal := tabOffset 1 s

/-- TO2 (R159). -/
def execTo2 (_chan : Bool) (s : State) : Host.Outcome State Fault Refusal := tabOffset 2 s

/-- TO3 (R160). -/
def execTo3 (_chan : Bool) (s : State) : Host.Outcome State Fault Refusal := tabOffset 3 s

end Sys2Proof.Machine
end

