-- ==== Sys2Proof/Machine/Erase.lean ====
section
/-! DEFINITION. The erase commands (41_control.md section 3). They need no active buffer and move no cursor (R57). -/

namespace Sys2Proof.Machine

/-- EDM (R153): clear the front; ready. -/
def execEdm (_chan _fld : Bool) (s : State) : Host.Outcome State Fault Refusal :=
  .next ((s.clearBuffer .front).ret true)

/-- ENM (R155): clear the back. -/
def execEnm (_chan _fld : Bool) (s : State) : Host.Outcome State Fault Refusal :=
  .next ((s.clearBuffer .back).ret false)

end Sys2Proof.Machine
end

