-- ==== Sys2Proof/Machine/Ignored.lean ====
section
/-! DEFINITION. The units no handler acts on: padding and the unclassified units. -/

namespace Sys2Proof.Machine

/-- PAD (40_decode_step.md R122): dropped, (false, 0); the decode step records nothing for it. -/
def execPad (s : State) : Host.Outcome State Fault Refusal := .next (s.ret false)

/-- UNCL (40_decode_step.md R127): no effect and not ready, with an active buffer or without. -/
def execUncl (_st : CapUnit) (s : State) : Host.Outcome State Fault Refusal := .next (s.ret false)

end Sys2Proof.Machine
end

