-- ==== Sys2Proof/Machine/Mode.lean ====
section
/-! DEFINITION. The mode-establishing commands (41_control.md section 2). `chan` and `fld` are not acted on
(30_encoding.md R90, R91, D3). -/

namespace Sys2Proof.Machine

/-- RCL (R141). -/
def execRcl (_chan _fld : Bool) (s : State) : Host.Outcome State Fault Refusal :=
  .next ((s.establish .back 0).ret false)

/-- RDC (R150). -/
def execRdc (_chan _fld : Bool) (s : State) : Host.Outcome State Fault Refusal :=
  .next ((s.establish .front 1).ret false)

/-- RU2 (R146): neither the cursor nor a cell changes. -/
def execRu2 (_chan _fld : Bool) (s : State) : Host.Outcome State Fault Refusal :=
  .next ((s.establish .front 2).ret false)

/-- RU3 (R147). -/
def execRu3 (_chan _fld : Bool) (s : State) : Host.Outcome State Fault Refusal :=
  .next ((s.establish .front 3).ret false)

/-- RU4 (R148). -/
def execRu4 (_chan _fld : Bool) (s : State) : Host.Outcome State Fault Refusal :=
  .next ((s.establish .front 4).ret false)

/-- EOC (R156): swap, clear the new back, home the cursor, select Back; ready. -/
def execEoc (_chan _fld : Bool) (s : State) : Host.Outcome State Fault Refusal :=
  let s1 := s.swap.clearBuffer .back
  .next ({ s1 with row := 0, col := 0, active := some .back }.ret true)

end Sys2Proof.Machine
end

