-- ==== Sys2Proof/Machine/Noop.lean ====
section
/-! DEFINITION. The recognised no-op commands (41_control.md section 5): each writes nothing and is not ready. That
`S.last` and `S.n` change is the decode step's doing (40_decode_step.md R120). -/

namespace Sys2Proof.Machine

/-- An accepted no-op: `return (false, 0)` (R143). -/
def acceptedNoop (s : State) : Host.Outcome State Fault Refusal := .next (s.ret false)

/-- AOF (R143). -/
def execAof (_chan _fld : Bool) (s : State) : Host.Outcome State Fault Refusal := acceptedNoop s

/-- AON (R144). -/
def execAon (_chan _fld : Bool) (s : State) : Host.Outcome State Fault Refusal := acceptedNoop s

/-- FON (R149). -/
def execFon (_chan _fld : Bool) (s : State) : Host.Outcome State Fault Refusal := acceptedNoop s

/-- TR (R151): text mode is not entered. -/
def execTr (_chan _fld : Bool) (s : State) : Host.Outcome State Fault Refusal := acceptedNoop s

/-- RTD (R152). -/
def execRtd (_chan _fld : Bool) (s : State) : Host.Outcome State Fault Refusal := acceptedNoop s

/-- CTL17_20 (R161). -/
def execCtl17K20 (_chan : Bool) (s : State) : Host.Outcome State Fault Refusal := acceptedNoop s

/-- CTL17_24_27 (R161). -/
def execCtl17K24 (_chan : Bool) (_k : BitVec 2) (s : State) : Host.Outcome State Fault Refusal := acceptedNoop s

/-- CTL17_28_2F (R161). -/
def execCtl17K28 (_chan : Bool) (_k : BitVec 3) (s : State) : Host.Outcome State Fault Refusal := acceptedNoop s

end Sys2Proof.Machine
end

