-- ==== Sys2Proof/Machine/Preamble.lean ====
section
/-! DEFINITION. Preamble address codes and mid-row codes (42_preamble_midrow.md). Both need an active buffer
(40_decode_step.md R126). -/

namespace Sys2Proof.Machine

/-- PAC (R183): row, column, style and underline, the cursor mirrored into the active DisplayState. A row select
with no row goes by `PAC_INVALID_ROW_POLICY` (R184). -/
def execPac (_chan : Bool) (rs : BitVec 4) (ind : Bool) (a : BitVec 3) (ul : Bool) (s : State) :
    Host.Outcome State Fault Refusal :=
  whenActive s fun b =>
    match s.params.rowOf rs with
    | none => pacInvalidRow s
    | some r =>
      let c := pacCol ind a
      let s1 := { s with row := r, col := c, style := pacStyle ind a, underline := ul }
      .next ((s1.setDsCursor b r c).ret false)

/-- MID (R186): style and underline only; no cell, no cursor movement. -/
def execMid (_chan : Bool) (a : BitVec 3) (ul : Bool) (s : State) : Host.Outcome State Fault Refusal :=
  whenActive s fun _ => .next ({ s with style := a, underline := ul }.ret false)

end Sys2Proof.Machine
end

