-- ==== Sys2Proof/Machine/Text.lean ====
section
/-! DEFINITION. The text units (43_text.md). All need an active buffer (40_decode_step.md R126); readiness is read
after the writes (R202). -/

namespace Sys2Proof.Machine

/-- `return (act(S).ds.RollupDepth > 0, 0)` (R202). -/
def State.retText (s : State) (b : BufSel) : State := s.ret (textReady s b)

/-- `BasicPair` (R204): the high byte's character, then the low byte's where it carries one. -/
def basicPair (c1 c2 : BitVec 7) (s : State) : Host.Outcome State Fault Refusal :=
  whenActive s fun b =>
    let s1 := s.writeChar b (basicIndex c1)
    let s2 := if hasSecondChar c2 then s1.writeChar b (basicIndex c2) else s1
    .next (s2.retText b)

/-- `WestEu` (R206, R207): the implicit backspace (R203), then the character. -/
def westEu (idx : Nat) (s : State) : Host.Outcome State Fault Refusal :=
  whenActive s fun b => .next (((s.backspace b).writeChar b idx).retText b)

/-- TXT_A (R204). -/
def execTxtA (c1 c2 : BitVec 7) (s : State) : Host.Outcome State Fault Refusal := basicPair c1 c2 s

/-- TXT_B (R204). -/
def execTxtB (c1 c2 : BitVec 7) (s : State) : Host.Outcome State Fault Refusal := basicPair c1 c2 s

/-- SPC (R205): no implicit backspace. -/
def execSpc (_chan : Bool) (k : BitVec 4) (s : State) : Host.Outcome State Fault Refusal :=
  whenActive s fun b => .next ((s.writeChar b (specialIndex k)).retText b)

/-- WE1 (R206). -/
def execWe1 (_chan : Bool) (k : BitVec 5) (s : State) : Host.Outcome State Fault Refusal :=
  westEu (westEuIndex1 k) s

/-- WE2 (R207). -/
def execWe2 (_chan : Bool) (k : BitVec 5) (s : State) : Host.Outcome State Fault Refusal :=
  westEu (westEuIndex2 k) s

end Sys2Proof.Machine
end

