-- ==== Sys2Proof/Machine/Dispatch.lean ====
section
/-! DEFINITION. The dispatch of the decode step (40_decode_step.md R125, R128; 41_control.md R140). -/

namespace Sys2Proof.Machine

/-- Steps 5 to 7 of R120 for one instruction, on the state with the unit recorded. -/
def exec (i : Instr) (s : State) : Host.Outcome State Fault Refusal :=
  match i with
  | .rcl chan fld => Sys2Proof.Machine.execRcl chan fld s
  | .bs chan fld => Sys2Proof.Machine.execBs chan fld s
  | .aof chan fld => Sys2Proof.Machine.execAof chan fld s
  | .aon chan fld => Sys2Proof.Machine.execAon chan fld s
  | .der chan fld => Sys2Proof.Machine.execDer chan fld s
  | .ru2 chan fld => Sys2Proof.Machine.execRu2 chan fld s
  | .ru3 chan fld => Sys2Proof.Machine.execRu3 chan fld s
  | .ru4 chan fld => Sys2Proof.Machine.execRu4 chan fld s
  | .fon chan fld => Sys2Proof.Machine.execFon chan fld s
  | .rdc chan fld => Sys2Proof.Machine.execRdc chan fld s
  | .tr chan fld => Sys2Proof.Machine.execTr chan fld s
  | .rtd chan fld => Sys2Proof.Machine.execRtd chan fld s
  | .edm chan fld => Sys2Proof.Machine.execEdm chan fld s
  | .cr chan fld => Sys2Proof.Machine.execCr chan fld s
  | .enm chan fld => Sys2Proof.Machine.execEnm chan fld s
  | .eoc chan fld => Sys2Proof.Machine.execEoc chan fld s
  | .ctl17_20 chan => Sys2Proof.Machine.execCtl17K20 chan s
  | .to1 chan => Sys2Proof.Machine.execTo1 chan s
  | .to2 chan => Sys2Proof.Machine.execTo2 chan s
  | .to3 chan => Sys2Proof.Machine.execTo3 chan s
  | .ctl17_24_27 chan k => Sys2Proof.Machine.execCtl17K24 chan k s
  | .ctl17_28_2F chan k => Sys2Proof.Machine.execCtl17K28 chan k s
  | .pac chan rs ind a ul => Sys2Proof.Machine.execPac chan rs ind a ul s
  | .mid chan a ul => Sys2Proof.Machine.execMid chan a ul s
  | .spc chan k => Sys2Proof.Machine.execSpc chan k s
  | .we1 chan k => Sys2Proof.Machine.execWe1 chan k s
  | .we2 chan k => Sys2Proof.Machine.execWe2 chan k s
  | .txtA c1 c2 => Sys2Proof.Machine.execTxtA c1 c2 s
  | .txtB c1 c2 => Sys2Proof.Machine.execTxtB c1 c2 s
  | .pad => Sys2Proof.Machine.execPad s
  | .uncl st => Sys2Proof.Machine.execUncl st s

end Sys2Proof.Machine
end

