-- ==== Sys2Proof/Machine/Step.lean ====
section
/-! DEFINITION. One step of the block: a decode step on the next presented unit (40_decode_step.md R120), or a reset
(70_reset_and_hazards.md R290). -/

namespace Sys2Proof.Machine

/-- One step. With nothing presented there is no step (R133), which is the refusal `noUnit`. -/
def step (s : State) : Host.Outcome State Fault Refusal :=
  match s.input with
  | [] => .refused .noUnit
  | .rst :: _ => .next s.takeReset
  | .unit u :: _ =>
    match firstChecks u s.beginStep with
    | .drop => .next s.beginStep
    | .run i s1 => exec i s1

/-- The state with a table word's instruction as the next unit (Decode.lean's `tableUnit` says how a word of
spec/opcode_table.json lies on the port). The unit already there, if any, is replaced. -/
def State.withFetchWord (s : State) (nbits w : Nat) : State := s.withNextUnit (tableUnit nbits w)

end Sys2Proof.Machine
end

