-- ==== Sys2Proof/Machine/Envelope.lean ====
section
/-! DEFINITION. The upstream envelope-extraction interface (48_envelope_interface.md), outside the block: a pure
function from a payload to the units the host presents. -/

namespace Sys2Proof.Machine

/-- What `Extract` answers (R250): units in payload order, or the one hard error, without a partial result. -/
inductive Extraction
  | ok (units : List CapUnit)
  | structural
  deriving DecidableEq, Repr

/-- An entry is kept iff its type tag (bits 1:0) is 0, first analog field, and its valid flag (bit 2) is set (R253). -/
def entryKept (e : Octet) : Bool := e.extractLsb' 0 2 == 0#2 && e.getLsbD 2

/-- The loop over `count` entries of R252: the kept payloads and how many entries were parsed; `none` where a `take`
runs past the end. -/
def envelopeEntries : Nat → List Octet → Option (List CapUnit × Nat)
  | 0, _ => some ([], 0)
  | k + 1, e :: hi :: lo :: rest =>
    match envelopeEntries k rest with
    | some (us, parsed) => some (if entryKept e then unitOfBytes hi lo :: us else us, parsed + 1)
    | none => none
  | _ + 1, _ => none

/-- From the header byte on (R252): 3 flag bits and a 5-bit count, a reserved byte, the entries. -/
def envelopeBody : List Octet → Extraction
  | hdr :: _reserved :: rest =>
    let count := (hdr.extractLsb' 0 5).toNat
    match envelopeEntries count rest with
    | some (us, parsed) => if parsed = count then .ok us else .structural
    | none => .structural
  | _ => .structural

/-- From the type code on (R252): only type 3 is parsed further; another gives no unit and no error (R254). -/
def envelopeTyped : List Octet → Extraction
  | t :: rest => if t = 3#8 then envelopeBody rest else .ok []
  | [] => .structural

/-- From the provider on (R252): 49 has a 4-byte user identifier, 47 has none, another gives `Ok([])` (R254). -/
def envelopeProvider : List Octet → Extraction
  | hi :: lo :: rest =>
    let prov := unitOfBytes hi lo
    if prov = 49#16 then
      if rest.length < 4 then .structural else envelopeTyped (rest.drop 4)
    else if prov = 47#16 then envelopeTyped rest
    else .ok []
  | _ => .structural

/-- `Extract(buf)` (R252): the minimum header, the country code with its extension byte after 0xFF, then the rest. -/
def extract (minHeader : Nat) (buf : List Octet) : Extraction :=
  if buf.length < minHeader then .structural
  else
    match buf with
    | [] => .structural
    | cc :: rest =>
      if cc = 0xFF#8 then
        match rest with
        | [] => .structural
        | _ :: rest' => envelopeProvider rest'
      else envelopeProvider rest

/-- The host presents units in list order, one decode step each (R251). -/
def State.present (s : State) (us : List CapUnit) : State :=
  { s with input := s.input ++ us.map PortInput.unit }

/-- The host asserts `rst` after what is already presented (R290). -/
def State.presentReset (s : State) : State := { s with input := s.input ++ [.rst] }

/-- The host presents a payload's units; on an extraction error it presents none (R258). -/
def State.presentPayload (s : State) (buf : List Octet) : State :=
  match extract s.params.envelopeMinHeader buf with
  | .ok us => s.present us
  | .structural => s

end Sys2Proof.Machine
end

