-- ==== Sys2Proof/Machine/Snapshot.lean ====
section
/-! DEFINITION. The snapshot, the text rendering and the cell read port (45_snapshot.md): pure functions of the state,
read between steps. -/

namespace Sys2Proof.Machine

/-- The snapshot's Mode (R231). -/
inductive Mode
  | unknown
  | popOn
  | paintOn
  deriving DecidableEq, Repr

/-- The snapshot record (R230). `row` is top-down, 1..15, and 0 only when the mode is unknown. -/
structure Snapshot where
  mode : Mode
  rollupDepth : Nat
  row : Nat
  col : Nat
  content : List CodePoint
  deriving DecidableEq, Repr

/-- The cell of a buffer at `(r, c)`, for in-range addresses. -/
def FrameBuffer.cellAt (fb : FrameBuffer) (r c : Nat) : Cell := Memory.get fb.cells (cellAddr r c)

/-- Some cell of row `r` is non-empty (R22, R233). -/
def rowUsed (fb : FrameBuffer) (r : Nat) : Bool := (List.range 32).any fun c => (fb.cellAt r c).cp != 0#21

/-- `RowText` (R234). -/
def rowText (p : Params) (fb : FrameBuffer) (r : Nat) : List CodePoint :=
  (List.range 32).flatMap fun c =>
    if (fb.cellAt r c).cp = 0#21 then p.emptyCellText else [(fb.cellAt r c).cp]

/-- The lines of `Render` in top-down order: rows scanned bottom-up, empty ones skipped, then reversed (R233). -/
def renderLines (p : Params) (fb : FrameBuffer) : List (List CodePoint) :=
  (((List.range 15).filter (rowUsed fb)).map (rowText p fb)).reverse

/-- `Render` (R233), lines joined with `LINE_BREAK` between them only (R235). -/
def render (p : Params) (fb : FrameBuffer) : List CodePoint := List.intercalate p.lineBreak (renderLines p fb)

/-- `Snapshot(S)` (R230): the zero record while no buffer is active, else read from the front buffer (R232). -/
def State.snapshot (s : State) : Snapshot :=
  match s.active with
  | none => ⟨.unknown, 0, 0, 0, []⟩
  | some _ =>
    { mode := if 0 < s.front.ds.rollupDepth then .paintOn else .popOn
      rollupDepth := s.front.ds.rollupDepth
      row := 15 - s.front.ds.row
      col := s.front.ds.col
      content := render s.params s.front }

/-- The port encoding of Mode (R238). -/
def Mode.code : Mode → BitVec 2
  | .unknown => 0#2
  | .popOn => 1#2
  | .paintOn => 2#2

/-- The snapshot record as the port carries it (R238): each field in its width, Content a string of scalar values. -/
structure SnapshotPort (colBits : Nat) where
  mode : BitVec 2
  rollupDepth : BitVec 3
  row : BitVec 4
  col : BitVec colBits
  content : List CodePoint
  deriving DecidableEq, Repr

/-- The port encoding of a snapshot record (R238). -/
def Snapshot.encode (v : Snapshot) (colBits : Nat) : SnapshotPort colBits where
  mode := v.mode.code
  rollupDepth := BitVec.ofNat 3 v.rollupDepth
  row := BitVec.ofNat 4 v.row
  col := BitVec.ofNat colBits v.col
  content := v.content

/-- The `snap` port (40_decode_step.md R132, R238), for a `Col` of `colBits extra` bits. -/
def State.snapPort (s : State) (extra : Nat) : SnapshotPort (s.params.colBits extra) :=
  s.snapshot.encode (s.params.colBits extra)

/-- The encoding of the active selector (R20, D29). -/
def activeCode : Option BufSel → BitVec 2
  | none => 0#2
  | some .front => 1#2
  | some .back => 2#2

/-- The buffer bit of the cell read port: 0 Front, 1 Back (R237). -/
def bufOfBit (b : Bool) : BufSel := if b then .back else .front

/-- The cell read port (R237): `none` for ABSENT, which only `r = 15` gives. -/
def State.cellPort (s : State) (bufBit : Bool) (r : BitVec 4) (c : BitVec 5) : Option Cell :=
  s.cellRead (bufOfBit bufBit) r.toNat c.toNat

end Sys2Proof.Machine
end

