-- ==== Sys2Proof/Safety.lean ====
section
/-! DEFINITION. The terms claims are stated in: the invariant of the state (10_state.md R36), what an instruction may
write (R40), and the conditions the whole-machine rules speak of. -/

namespace Sys2Proof.Machine

/-! ## The invariant -/

/-- A cell holds a Unicode scalar value (R21). -/
abbrev Cell.legal (c : Cell) : Prop := isScalar c.cp = true

/-- A buffer the rules can leave (R36): canonical cells holding scalar values, the DisplayState in its ranges. Its
column is bounded only under `TAB_CLAMP` (R162, D9). -/
def FrameBuffer.Ok (p : Params) (fb : FrameBuffer) : Prop :=
  Memory.wf fb.cells ∧ (∀ e ∈ fb.cells, e.2.legal)
    ∧ fb.ds.rollupDepth ≤ 4 ∧ fb.ds.row < 15 ∧ (p.tabClamp = true → fb.ds.col < 32)

/-- R36's invariants with R31's (bits 15 and 7 of `S.last` are 0) and R131's (`err` is 0). -/
structure State.Inv (s : State) : Prop where
  params : s.params.Legal
  row : s.row < 15
  col : s.params.tabClamp = true → s.col < 32
  front : s.front.Ok s.params
  back : s.back.Ok s.params
  last : strip s.last = s.last
  err : s.out.err = false

/-- What R239 rests on: while no mode has been established the buffers are empty and the registers are as reset
left them. -/
def State.PreModeFresh (s : State) : Prop :=
  s.active = none →
    (∀ b r c, inRange r c → s.cellRead b r c = some Cell.empty)
      ∧ s.front.ds = DisplayState.zero ∧ s.back.ds = DisplayState.zero
      ∧ s.row = 0 ∧ s.col = 0 ∧ s.style = 0#3 ∧ s.underline = false

/-! ## What an instruction may write -/

/-- The named fields of the state other than cells and outputs. -/
inductive Field
  | active
  | row
  | col
  | style
  | underline
  | last
  | n
  | depth (b : BufSel)
  | dsRow (b : BufSel)
  | dsCol (b : BufSel)
  | params
  | input
  deriving DecidableEq, Repr

/-- A field holds in `t` what it held in `s`. -/
def Field.same (s t : State) : Field → Prop
  | .active => t.active = s.active
  | .row => t.row = s.row
  | .col => t.col = s.col
  | .style => t.style = s.style
  | .underline => t.underline = s.underline
  | .last => t.last = s.last
  | .n => t.n = s.n
  | .depth b => (t.buf b).ds.rollupDepth = (s.buf b).ds.rollupDepth
  | .dsRow b => (t.buf b).ds.row = (s.buf b).ds.row
  | .dsCol b => (t.buf b).ds.col = (s.buf b).ds.col
  | .params => t.params = s.params
  | .input => t.input = s.input

/-- Every field outside `ws` is unchanged. -/
def OnlyFields (ws : List Field) (s t : State) : Prop := ∀ f, f ∉ ws → f.same s t

/-- Every cell of both buffers outside `P` reads as before. -/
def OnlyCells (P : BufSel → Nat → Nat → Prop) (s t : State) : Prop :=
  ∀ b r c, ¬ P b r c → t.cellRead b r c = s.cellRead b r c

/-- No cell is written. -/
def NoCell (_ : BufSel) (_ _ : Nat) : Prop := False

/-- The outputs of a step that returned `(ready, 0)` (R11). -/
def Returns (t : State) (ready : Bool) : Prop := t.out.ready = ready ∧ t.out.err = false

/-- All six fields of both DisplayStates. -/
def dsFields : List Field :=
  [.depth .front, .dsRow .front, .dsCol .front, .depth .back, .dsRow .back, .dsCol .back]

/-- The DisplayState fields a clear of buffer `b` writes (R56). -/
def clearFields (s : State) (b : BufSel) : List Field :=
  if s.params.clearResetsDisplayState then [.depth b, .dsRow b, .dsCol b] else []

end Sys2Proof.Machine

namespace Sys2Proof

open Sys2Proof.Machine

/-- The fields an instruction may write in a state (R40), `S.last` and `S.n` being the decode step's. -/
def Instr.mayWrite (i : Instr) (s : State) : List Field :=
  match i, s.active with
  | .rcl _ _, _ => [.active, .depth .back]
  | .rdc _ _, _ | .ru2 _ _, _ | .ru3 _ _, _ | .ru4 _ _, _ => [.active, .depth .front]
  | .edm _ _, _ => clearFields s .front
  | .enm _ _, _ => clearFields s .back
  | .eoc _ _, _ => [.row, .col, .active] ++ dsFields
  | .cr _ _, some b | .to1 _, some b | .to2 _, some b | .to3 _, some b => [.col, .dsCol b]
  | .bs _ _, some _ => [.col]
  | .pac _ _ _ _ _, some b => [.row, .col, .style, .underline, .dsRow b, .dsCol b]
  | .mid _ _ _, some _ => [.style, .underline]
  | .txtA _ _, some _ | .txtB _ _, some _ | .spc _ _, some _ | .we1 _ _, some _ | .we2 _ _, some _ => [.col]
  | _, _ => []

/-- The cells an instruction may write in a state (R40), each address computed as the instruction's rule computes
it: the cursor cell and, for a pair, the one after it (R201, R204); the cell the backspace moves to (R142, R203);
the rest of the row (R145); the roll-up window (R59); a whole buffer (R56); both (R156). -/
def Instr.mayWriteCell (i : Instr) (s : State) (b : BufSel) (r c : Nat) : Prop :=
  match i with
  | .edm _ _ => b = .front
  | .enm _ _ => b = .back
  | .eoc _ _ => True
  | .cr _ _ => s.active = some b ∧ s.row ≤ r ∧ (r = s.row ∨ r < s.row + (s.buf b).ds.rollupDepth)
  | .bs _ _ | .we1 _ _ | .we2 _ _ => s.active = some b ∧ r = s.row ∧ c = s.col - 1
  | .der _ _ => s.active = some b ∧ r = s.row ∧ s.col ≤ c
  | .spc _ _ => s.active = some b ∧ r = s.row ∧ c = s.col
  | .txtA _ c2 | .txtB _ c2 =>
    s.active = some b ∧ r = s.row ∧ (c = s.col ∨ (hasSecondChar c2 = true ∧ c = min (s.col + 1) 31))
  | _ => False

/-! ## Kinds of instruction the whole-machine rules name -/

/-- A preamble address code or EOC, the writers of the cursor row (R27). -/
def Instr.setsRow : Instr → Bool
  | .pac _ _ _ _ _ | .eoc _ _ => true
  | _ => false

/-- A preamble address code or a mid-row code, the writers of style and underline (R29, R30). -/
def Instr.setsStyle : Instr → Bool
  | .pac _ _ _ _ _ | .mid _ _ _ => true
  | _ => false

/-- The six mode-establishing commands, with the buffer each selects (R26, R164). -/
def Instr.selects : Instr → Option BufSel
  | .rcl _ _ | .eoc _ _ => some .back
  | .rdc _ _ | .ru2 _ _ | .ru3 _ _ | .ru4 _ _ => some .front
  | _ => none

/-- BASIC, SPECIAL and WE units (R129, R202). -/
def Instr.isText (i : Instr) : Bool := i.unitClass == .basic || i.unitClass == .special || i.unitClass == .we

/-- EDM or EOC, the only control commands that report ready (R165). -/
def Instr.isDisplayEvent : Instr → Bool
  | .edm _ _ | .eoc _ _ => true
  | _ => false

/-- The commands that act on the active buffer (R163). -/
def Instr.needsBuffer : Instr → Bool
  | .bs _ _ | .der _ _ | .cr _ _ | .to1 _ | .to2 _ | .to3 _ => true
  | _ => false

/-- The accepted no-op commands (R143, R144, R149, R151, R152, R161). -/
def Instr.isAcceptedNoop : Instr → Bool
  | .aof _ _ | .aon _ _ | .fon _ _ | .tr _ _ | .rtd _ _ => true
  | .ctl17_20 _ | .ctl17_24_27 _ _ | .ctl17_28_2F _ _ => true
  | _ => false

/-- The units that may move the cursor column (R28). -/
def Instr.movesColumn (i : Instr) : Bool :=
  i.isText || i.unitClass == .pac ||
    match i with
    | .cr _ _ | .bs _ _ | .to1 _ | .to2 _ | .to3 _ | .eoc _ _ => true
    | _ => false

end Sys2Proof

namespace Sys2Proof.Machine

/-! ## Terms of the decode step and of roll-up -/

/-- The unit is dropped as a duplicate (R123): CONTROL or SPECIAL, and equal bit for bit to the last recorded. -/
def Duplicate (s : State) (u : CapUnit) : Prop :=
  (classify (strip u) = .control ∨ classify (strip u) = .special) ∧ strip u = s.last

/-- The state on which a decode step runs its instruction (R120): the unit consumed and counted, the outputs at
(false, 0) with no change, the stripped unit recorded unless it is padding (R122, R124). -/
def Noted (s : State) (u : CapUnit) (rest : List PortInput) : State :=
  { s with n := s.n + 1, input := rest, out := ⟨true, false, false, false⟩,
           last := if strip u = 0#16 then s.last else strip u }

/-- The state after a silent drop (R272): only the count and the port state move. -/
def Dropped (s : State) (rest : List PortInput) : State :=
  { s with n := s.n + 1, input := rest, out := ⟨true, false, false, false⟩ }

/-- `k` steps, stopping at the first fault or refusal. -/
def runSteps : Nat → State → Host.Outcome State Fault Refusal
  | 0, s => .next s
  | k + 1, s =>
    match step s with
    | .next t => runSteps k t
    | .fault f => .fault f
    | .refused r => .refused r

/-- A roll-up of depth `k` at base row `b` (R240): Front active with that depth, the window inside the buffer, every
front cell outside the window empty. -/
structure RollupWindow (k b : Nat) (s : State) : Prop where
  active : s.active = some .front
  depth : s.front.ds.rollupDepth = k
  row : s.row = b
  fits : b + k ≤ 15
  outside : ∀ r c, inRange r c → r < b ∨ b + k ≤ r → s.cellRead .front r c = some Cell.empty

end Sys2Proof.Machine
end

