-- ==== Sys2Proof/Certificates/Slice0/Obligations.lean ====
section
/-! DEFINITION. The statements for the provers. Each docstring names the rule or section it formalises; OBLIGATIONS.json
gives the basis. -/

open Sys2Proof Sys2Proof.Machine

/-! ## Encoding (30_encoding.md) -/

/-- 30_encoding.md sections 6 and 8: no bit of an encoding is dropped. The raw unit is the spec's own (D20). -/
def Obligations.DecodeOfEncode : Prop :=
  ∀ i : Instr, i.wellFormed = true → decode (encode i) = .ok i

/-- 30_encoding.md sections 2 and 6: every raw unit that passes parity is the encoding of the one instruction it
decodes to, which is well formed. -/
def Obligations.EncodeOfDecode : Prop :=
  ∀ (u : CapUnit) (i : Instr), decode u = .ok i → i.wellFormed = true ∧ encode i = u

/-- 30_encoding.md section 8 and 95_test_vectors.md sections 2.1 to 2.8: raw units the spec writes out (control keys and
field places are general knowledge it marks, log entry 3). -/
def Obligations.SpecWordsDecode : Prop :=
  decode 0x9420#16 = .ok (.rcl false false) ∧ decode 0x942F#16 = .ok (.eoc false false)
    ∧ decode 0x94AD#16 = .ok (.cr false false) ∧ decode 0x1C20#16 = .ok (.rcl true false)
    ∧ decode 0x152F#16 = .ok (.eoc false true) ∧ decode 0x97A1#16 = .ok (.to1 false)
    ∧ decode 0x97A4#16 = .ok (.ctl17_24_27 false 0#2) ∧ decode 0x972F#16 = .ok (.ctl17_28_2F false 7#3)
    ∧ decode 0x92D3#16 = .ok (.pac false 4#4 true 1#3 true) ∧ decode 0x91AE#16 = .ok (.mid false 7#3 false)
    ∧ decode 0x1937#16 = .ok (.spc true 7#4) ∧ decode 0x92B3#16 = .ok (.we1 false 0x13#5)
    ∧ decode 0x13BF#16 = .ok (.we2 false 0x1F#5) ∧ decode 0x2080#16 = .ok (.txtA 0x20#7 0x00#7)
    ∧ decode 0xC849#16 = .ok (.txtB 0x48#7 0x49#7) ∧ decode 0x8080#16 = .ok .pad
    ∧ decode 0x0102#16 = .ok (.uncl 0x0102#16) ∧ decode 0x1420#16 = .error .parity

/-- R81 and R82: a byte is valid iff its number of 1 bits is odd; a ROM entry is its index with bit 7 set so that the
count is odd; R82's six entries. -/
def Obligations.ParityRomIsOdd : Prop :=
  (∀ b : Octet, byteParityOk b = true ↔ popcount b % 2 = 1)
    ∧ (∀ v : BitVec 7, (romParity v).extractLsb' 0 7 = v ∧ popcount (romParity v) % 2 = 1)
    ∧ romParity 0x00#7 = 0x80#8 ∧ romParity 0x01#7 = 0x01#8 ∧ romParity 0x03#7 = 0x83#8
    ∧ romParity 0x14#7 = 0x94#8 ∧ romParity 0x20#7 = 0x20#8 ∧ romParity 0x7F#7 = 0x7F#8

/-- R83: `ok` is true exactly when both bytes have odd parity; the stripped unit has both parity bits cleared and every
other bit kept; the decoder uses it only when `ok`. -/
def Obligations.ValidateAndStripUnit : Prop :=
  ∀ u : CapUnit,
    ((validateAndStrip u).2 = true ↔ popcount (highByte u) % 2 = 1 ∧ popcount (lowByte u) % 2 = 1)
      ∧ (∀ k, (validateAndStrip u).1.getLsbD k = (u.getLsbD k && decide (k ≠ 15) && decide (k ≠ 7)))
      ∧ (decode u = .error .parity ↔ (validateAndStrip u).2 = false)

/-- 30_encoding.md section 2: raw 0x8080 is the only raw unit that decodes to padding. -/
def Obligations.PaddingIsOneUnit : Prop :=
  ∀ u : CapUnit, decode u = .ok .pad ↔ u = 0x8080#16

/-- 30_encoding.md section 3: no unit satisfies two of the six class predicates. -/
def Obligations.ClassPredicatesDisjoint : Prop :=
  ∀ s : CapUnit,
    ([isControl s, isPreamble s, isMidRow s, isSpecial s, isWestEu s, isBasic s].filter id).length ≤ 1

/-- 30_encoding.md sections 3 and 6 (the control keys of the map are general knowledge the spec marks, log entry 3): the
instruction of a stripped unit is one whose row of the opcode map the unit matches, its class is the classifier's, and
it is well formed (for the default row, in the listed unclassified set). -/
def Obligations.DecoderFollowsOpcodeMap : Prop :=
  ∀ s : CapUnit, strip s = s →
    s &&& (decodeStripped s).rowMask = (decodeStripped s).rowMatch
      ∧ (decodeStripped s).unitClass = classify s
      ∧ (decodeStripped s).wellFormed = true

/-- 30_encoding.md section 4, the spec's own decisions D3 and, for WE units, D4: outside BASIC, PAD and UNCLASSIFIED bit
11 changes no effect, nor does bit 8 in the 0x14 group. -/
def Obligations.ChannelAndFieldIgnored : Prop :=
  ∀ (s : CapUnit) (q : State), strip s = s →
    (classify s ≠ .basic → classify s ≠ .pad → classify s ≠ .unclassified →
      exec (decodeStripped (s ^^^ 0x0800#16)) q = exec (decodeStripped s) q)
    ∧ (s &&& 0x7670#16 = 0x1420#16 → exec (decodeStripped (s ^^^ 0x0100#16)) q = exec (decodeStripped s) q)

/-! ## The decode step (40_decode_step.md) -/

/-- 40_decode_step.md section 2 (the count is decision D2; how outputs and stream are kept is log entries 4 and 5, which
checks stand in the step and which in the instruction log entry 9): a step runs the instruction its unit decodes to, on
the state with the unit consumed and counted, the outputs at (false, 0) without a change, and the stripped unit recorded
unless it is padding. -/
def Obligations.StepRunsDecoded : Prop :=
  ∀ (s : State) (u : CapUnit) (rest : List PortInput) (i : Instr),
    s.input = .unit u :: rest → decode u = .ok i → ¬ Duplicate s u →
    step s = exec i
      { s with n := s.n + 1, input := rest, out := ⟨true, false, false, false⟩,
               last := if strip u = 0#16 then s.last else strip u }

/-- R121: a unit that fails parity changes nothing but the count; the step returns (false, 0). -/
def Obligations.ParityFailureDrops : Prop :=
  ∀ (s : State) (u : CapUnit) (rest : List PortInput),
    s.input = .unit u :: rest → (popcount (highByte u) % 2 = 0 ∨ popcount (lowByte u) % 2 = 0) →
    step s = .next { s with n := s.n + 1, input := rest, out := ⟨true, false, false, false⟩ }

/-- R122: padding changes nothing but the count; the step returns (false, 0). -/
def Obligations.PaddingDrops : Prop :=
  ∀ (s : State) (u : CapUnit) (rest : List PortInput),
    s.input = .unit u :: rest → parityOk u = true → strip u = 0#16 →
    step s = .next { s with n := s.n + 1, input := rest, out := ⟨true, false, false, false⟩ }

/-- R123: a CONTROL or SPECIAL unit equal bit for bit to the last recorded one changes nothing but the count; a PAC,
MIDROW, WE, BASIC or UNCLASSIFIED unit runs whatever was last recorded. -/
def Obligations.DuplicateDrops : Prop :=
  ∀ (s : State) (u : CapUnit) (rest : List PortInput),
    s.input = .unit u :: rest → parityOk u = true →
    ((classify (strip u) = .control ∨ classify (strip u) = .special) → strip u = s.last →
      step s = .next { s with n := s.n + 1, input := rest, out := ⟨true, false, false, false⟩ })
    ∧ (classify (strip u) ∈ [UnitClass.pac, .midrow, .we, .basic, .unclassified] →
      step s = exec (decodeStripped (strip u))
        { s with n := s.n + 1, input := rest, out := ⟨true, false, false, false⟩, last := strip u })

/-- R124: every unit that passes parity, is not padding and is not a dropped duplicate is recorded, whatever its class
and whether or not a mode is established. -/
def Obligations.StepRecordsUnit : Prop :=
  ∀ (s t : State) (u : CapUnit) (rest : List PortInput),
    s.input = .unit u :: rest → parityOk u = true → strip u ≠ 0#16 → ¬ Duplicate s u →
    step s = .next t → t.last = strip u

/-- R126: with no active buffer a non-control unit is dropped with (false, 0) after being recorded. -/
def Obligations.NoModeDrops : Prop :=
  ∀ (s : State) (u : CapUnit) (rest : List PortInput),
    s.active = none → s.input = .unit u :: rest → parityOk u = true → strip u ≠ 0#16 → ¬ Duplicate s u →
    classify (strip u) ≠ .control →
    step s = .next
      { s with n := s.n + 1, input := rest, out := ⟨true, false, false, false⟩, last := strip u }

/-- 20_memory.md sections 1 and 4 (that a taken `rst` is an item of the stream, consumed like a unit, is log entry 5,
the model's choice): the stream is read forward, one item a step, and never written; a unit's bytes lie high byte first.
-/
def Obligations.StreamReadForward : Prop :=
  (∀ (s t : State) (x : PortInput) (rest : List PortInput),
    s.input = x :: rest → step s = .next t → t.input = rest)
    ∧ ∀ (hi lo : Octet), highByte (unitOfBytes hi lo) = hi ∧ lowByte (unitOfBytes hi lo) = lo

/-- 10_state.md section 4 (the counter is the spec's decision D2): every decode step counts its unit. -/
def Obligations.StepCountsUnits : Prop :=
  ∀ (s t : State) (u : CapUnit) (rest : List PortInput),
    s.input = .unit u :: rest → step s = .next t → t.n = s.n + 1

/-- 40_decode_step.md section 3 (that a decode step always takes a next state holds under the default policies, the
spec's decisions D6 and D10; the `changed` port is D16's; how the outputs are kept is log entry 4): after every decode
step `err` is 0 and the ports show its outputs, and under the default policies the step never aborts. -/
def Obligations.DecodeNeverErrs : Prop :=
  ∀ (s : State) (u : CapUnit) (rest : List PortInput), s.input = .unit u :: rest →
    (∀ t, step s = .next t → t.out.err = false ∧ t.errPort = some false ∧ t.readyPort = some t.out.ready
      ∧ t.changedPort = (if s.params.hasChangedOutput then some t.out.changed else none))
    ∧ (s.params.preModePolicy = .ignore → s.params.pacInvalidRowPolicy = .ignore → ∃ t, step s = .next t)

/-- 60_exceptions.md section 2 (the two policies are the spec's decisions D6, D10): a decode step ends in a next state,
in the one fault or in the one refusal, each only under its policy and its condition. -/
def Obligations.StepOutcomesClosed : Prop :=
  ∀ (s : State) (u : CapUnit) (rest : List PortInput), s.input = .unit u :: rest →
    (∃ t, step s = .next t)
    ∨ (step s = .fault .preModeBufferCommand ∧ s.params.preModePolicy = .fault ∧ s.active = none
        ∧ (decodeStripped (strip u)).needsBuffer = true)
    ∨ (step s = .refused .pacRowInvalid ∧ s.params.pacInvalidRowPolicy = .refuse ∧ s.active ≠ none
        ∧ classify (strip u) = .pac ∧ s.params.rowOf (rowSelectField (strip u)) = none)

/-! ## Reset and parameters (10_state.md section 8, 70_reset_and_hazards.md section 1) -/

/-- 10_state.md section 8 (D19 for the cursor, style, underline, last unit and count; log entry 2 for the parameters,
log entries 4 and 5 for the model's own fields): the state after reset, and its zero snapshot (45_snapshot.md, D12). -/
def Obligations.ResetStateValues : Prop :=
  (∀ b r c, inRange r c → State.reset.cellRead b r c = some Cell.empty)
    ∧ State.reset.front.ds = ⟨0, 0, 0⟩ ∧ State.reset.back.ds = ⟨0, 0, 0⟩
    ∧ State.reset.active = none ∧ State.reset.row = 0 ∧ State.reset.col = 0 ∧ State.reset.style = 0#3
    ∧ State.reset.underline = false ∧ State.reset.last = 0#16 ∧ State.reset.n = 0
    ∧ State.reset.params = Params.default ∧ State.reset.input = [] ∧ State.reset.readyPort = none
    ∧ State.reset.snapshot = ⟨.unknown, 0, 0, 0, []⟩

/-- 70_reset_and_hazards.md section 1 (D19; that the rest of the stream stays is log entry 5, and that the outputs are
then not valid and 0 is log entry 4, both the model's choice): a presented `rst` puts every state element to its reset
value. -/
def Obligations.ResetEventResets : Prop :=
  ∀ (s : State) (rest : List PortInput), s.input = .rst :: rest →
    step s = .next { State.resetWith s.params with input := rest }

/-- R291: neither reset nor any other step changes the ROMs or a parameter. -/
def Obligations.ParamsNeverWritten : Prop :=
  ∀ s t : State, step s = .next t → t.params = s.params

/-- 10_state.md sections 5 and 8 (cursor and last unit by decision D19), and `err` as 40_decode_step.md section 3 has it
after a step. That State.reset has the default parameters is log entry 2, that `err` is 0 at reset log entry 4, the
canonical form of cells log entry 6, all the model's choice: the reset state satisfies the invariant. -/
def Obligations.ResetHasInv : Prop := State.reset.Inv

/-- 10_state.md section 5, and 40_decode_step.md section 3 for `err` (columns bounded only under TAB_CLAMP, D9; code
points are scalar values by D14; reset values by D19; that `err` stands in the state and is 0 after `rst` is log entry
4, the canonical form of cells log entry 6): every step from a state with the invariant leaves the invariant. -/
def Obligations.StepKeepsInv : Prop :=
  ∀ s t : State, s.Inv → step s = .next t → t.Inv

/-- 45_snapshot.md, the fresh-decoder property, with the fields it rests on. Until a mode is established the buffers
stay empty and the DisplayStates, cursor, style and underline stay at the values of 10_state.md section 8 (decision D19
for the last three): every non-control unit is dropped (40_decode_step.md section 2), BS, DER, CR and the tabs write
nothing or fault (41_control.md section 1, D6), EDM and ENM write only EMPTY, which is zero (20_memory.md section 3,
D8), and move no cursor (D27), and the remaining control commands write nothing (41_control.md section 5, D31). So the
snapshot stays the zero record, which it is while no buffer is active (D12). -/
def Obligations.StepKeepsPreModeFresh : Prop :=
  ∀ s t : State, s.PreModeFresh → step s = .next t →
    t.PreModeFresh ∧ (t.active = none → t.snapshot = ⟨.unknown, 0, 0, 0, []⟩)

/-! ## Who writes what (10_state.md) -/

/-- R26: the active buffer is what the last mode-establishing command selected; nothing else changes it, so that once
selected it is never none again. -/
def Obligations.ActiveSelectedByModeCommands : Prop :=
  (∀ (i : Instr) (s t : State), exec i s = .next t →
    t.active = (match i.selects with | some b => some b | none => s.active))
    ∧ (∀ (s t : State) (u : CapUnit) (rest : List PortInput), s.input = .unit u :: rest → step s = .next t →
      (s.active ≠ none → t.active ≠ none)
      ∧ (s.active = none → t.active ≠ none → (decodeStripped (strip u)).selects = t.active))
    ∧ (∀ s : State, s.buf .front = s.front ∧ s.buf .back = s.back)

/-- 10_state.md section 3 (RU2 to RU4 move no cursor by decision D35, a clear none by D27): only a PAC and EOC write the
cursor row, which stays in 0..14. -/
def Obligations.RowWriters : Prop :=
  (∀ (i : Instr) (s t : State), exec i s = .next t → i.setsRow = false → t.row = s.row)
    ∧ (∀ (i : Instr) (s t : State), s.Inv → exec i s = .next t → t.row < 15)

/-- 10_state.md sections 3 and 9 (a clear moves no cursor by decision D27, RU2 to RU4 none by D35): only a PAC, the
character units, CR, BS, TO1 to TO3 and EOC write the cursor column. -/
def Obligations.ColumnWriters : Prop :=
  ∀ (i : Instr) (s t : State), exec i s = .next t → i.movesColumn = false → t.col = s.col

/-- 10_state.md section 3 and 42_preamble_midrow.md section 3 (that style and underline persist, no other command
resetting them, is decision D37): only a PAC and a mid-row code write style and underline, and the next written
character takes them (43_text.md section 1). -/
def Obligations.UnderlineWriters : Prop :=
  (∀ (i : Instr) (s t : State), exec i s = .next t → i.setsStyle = false →
    t.underline = s.underline ∧ t.style = s.style)
    ∧ (∀ (s : State) (b : BufSel) (idx : Nat), inRange s.row s.col →
      (s.writeChar b idx).cellRead b s.row s.col = some ⟨s.params.lookup idx, s.style, s.underline⟩)

/-- 10_state.md section 9, the frame of every instruction: no field outside its row of the table and no cell outside
the addresses its rule computes is written. `S.last`, `S.n`, the parameters and the stream are in no row. The rows rest
on decisions D6 and D7 (parameters), D8, D10, D17, D18, D26, D27, D31, D34, D35, D36, D37 and D39. -/
def Obligations.InstrWritesOnlyItsOwn : Prop :=
  ∀ (i : Instr) (s t : State), exec i s = .next t →
    OnlyFields (i.mayWrite s) s t ∧ OnlyCells (i.mayWriteCell s) s t

/-! ## Control commands (41_control.md) -/

/-- What a mode-establishing command other than EOC leaves (41_control.md section 2). -/
def Establishes (i : Instr) (b : BufSel) (d : Nat) : Prop :=
  ∀ s : State, ∃ t, exec i s = .next t ∧ t.active = some b ∧ (t.buf b).ds.rollupDepth = d
    ∧ OnlyFields [.active, .depth b] s t ∧ OnlyCells NoCell s t
    ∧ Returns t false ∧ t.out.changed = s.out.changed

/-- 41_control.md section 2 (that the depth is the selected buffer's is the spec's decision D39; that RU2, RU3 and RU4
move no cursor and clear no cell is D35; that style and underline stay is D37): RCL, RDC, RU2, RU3 and RU4 select their
buffer and write its depth, and no other field and no cell changes. -/
def Obligations.ModeCommandsEstablish : Prop :=
  ∀ chan fld : Bool,
    Establishes (.rcl chan fld) .back 0 ∧ Establishes (.rdc chan fld) .front 1
      ∧ Establishes (.ru2 chan fld) .front 2 ∧ Establishes (.ru3 chan fld) .front 3
      ∧ Establishes (.ru4 chan fld) .front 4

/-- 41_control.md section 2 (the new back's DisplayState is decision D7, EMPTY D8, `changed` D16, style and underline
kept D37): EOC swaps the buffers, clears the new back, homes the cursor, selects Back and is ready, in any mode. -/
def Obligations.EndOfCaptionSwaps : Prop :=
  ∀ (chan fld : Bool) (s : State), ∃ t, exec (.eoc chan fld) s = .next t
    ∧ t.front = s.back
    ∧ (∀ r c, inRange r c → t.cellRead .back r c = some Cell.empty)
    ∧ t.back.ds = (if s.params.clearResetsDisplayState then ⟨0, 0, 0⟩ else s.front.ds)
    ∧ t.row = 0 ∧ t.col = 0 ∧ t.active = some .back
    ∧ OnlyFields ([.row, .col, .active] ++ dsFields) s t
    ∧ Returns t true
    ∧ (t.out.changed = true ↔
        s.out.changed = true ∨ ∃ r c, inRange r c ∧ s.cellRead .front r c ≠ some Cell.empty)

/-- What an erase command leaves (41_control.md section 3). -/
def Erases (i : Instr) (b : BufSel) (ready : Bool) : Prop :=
  ∀ s : State, ∃ t, exec i s = .next t
    ∧ (∀ r c, inRange r c → t.cellRead b r c = some Cell.empty)
    ∧ OnlyCells (fun b' _ _ => b' = b) s t
    ∧ (t.buf b).ds = (if s.params.clearResetsDisplayState then ⟨0, 0, 0⟩ else (s.buf b).ds)
    ∧ OnlyFields (clearFields s b) s t
    ∧ Returns t ready
    ∧ (t.out.changed = true ↔
        s.out.changed = true ∨ ∃ r c, inRange r c ∧ s.cellRead b r c ≠ some Cell.empty)

/-- 41_control.md section 3 (DisplayState by decision D7, EMPTY by D8, `changed` by D16, cursor, style and underline
kept by D27 and D37): EDM clears the front and is ready, ENM clears the back and is not, in any mode. -/
def Obligations.EraseCommandsClear : Prop :=
  ∀ chan fld : Bool, Erases (.edm chan fld) .front true ∧ Erases (.enm chan fld) .back false

/-- 41_control.md section 4 and 20_memory.md section 3 (depth by decision D36, guard by D26, EMPTY by D8, `changed` by
D16, style and underline kept by D37): CR sets the columns to 0 and rolls the active buffer up at the cursor row;
outside the guard's range no cell changes. -/
def Obligations.CarriageReturnRollsUp : Prop :=
  ∀ (chan fld : Bool) (s : State) (b : BufSel), s.active = some b →
    ∃ t, exec (.cr chan fld) s = .next t ∧ t.col = 0 ∧ (t.buf b).ds.col = 0
      ∧ (∀ r c, inRange r c → t.cellRead b r c =
          if s.row + (s.buf b).ds.rollupDepth > 15 ∨ s.row + (s.buf b).ds.rollupDepth = 0 then s.cellRead b r c
          else if r = s.row then some Cell.empty
          else if s.row < r ∧ r < s.row + (s.buf b).ds.rollupDepth then s.cellRead b (r - 1) c
          else s.cellRead b r c)
      ∧ OnlyCells (fun b' _ _ => b' = b) s t
      ∧ OnlyFields [.col, .dsCol b] s t
      ∧ Returns t false
      ∧ (t.out.changed = true ↔
          s.out.changed = true ∨ ∃ r c, inRange r c ∧ t.cellRead b r c ≠ s.cellRead b r c)

/-- 41_control.md section 4 (`ds.Col` untouched by decision D17, EMPTY by D8, `changed` by D16, style and underline kept
by D37): BS moves the column back, stopping at 0, and clears the cell there. -/
def Obligations.BackspaceClearsCell : Prop :=
  ∀ (chan fld : Bool) (s : State) (b : BufSel), s.active = some b →
    ∃ t, exec (.bs chan fld) s = .next t ∧ t.col = s.col - 1
      ∧ (inRange s.row (s.col - 1) → t.cellRead b s.row (s.col - 1) = some Cell.empty)
      ∧ OnlyCells (fun b' r c => b' = b ∧ r = s.row ∧ c = s.col - 1) s t
      ∧ OnlyFields [.col] s t
      ∧ Returns t false
      ∧ (t.out.changed = true ↔ s.out.changed = true ∨
          (inRange s.row (s.col - 1) ∧ s.cellRead b s.row (s.col - 1) ≠ some Cell.empty))

/-- 41_control.md section 4 (EMPTY by decision D8, `changed` by D16, style and underline kept by D37): DER clears the
cursor row from the cursor on and moves nothing. -/
def Obligations.DeleteToEndOfRow : Prop :=
  ∀ (chan fld : Bool) (s : State) (b : BufSel), s.active = some b →
    ∃ t, exec (.der chan fld) s = .next t
      ∧ (∀ c, inRange s.row c → s.col ≤ c → t.cellRead b s.row c = some Cell.empty)
      ∧ OnlyCells (fun b' r c => b' = b ∧ r = s.row ∧ s.col ≤ c) s t
      ∧ OnlyFields [] s t
      ∧ Returns t false
      ∧ (t.out.changed = true ↔
          s.out.changed = true ∨ ∃ c, inRange s.row c ∧ s.col ≤ c ∧ s.cellRead b s.row c ≠ some Cell.empty)

/-- What a tab of `n` leaves (41_control.md section 1). -/
def Tabs (i : Instr) (n : Nat) : Prop :=
  ∀ (s : State) (b : BufSel), s.active = some b →
    ∃ t, exec i s = .next t
      ∧ t.col = (if s.params.tabClamp then min (s.col + n) 31 else s.col + n)
      ∧ (t.buf b).ds.col = t.col
      ∧ OnlyFields [.col, .dsCol b] s t ∧ OnlyCells NoCell s t
      ∧ Returns t false ∧ t.out.changed = s.out.changed

/-- 41_control.md sections 1 and 4 (the clamp is the parameter of decision D9, style and underline kept by D37): TO1,
TO2 and TO3 move the column and mirror it into the active DisplayState. -/
def Obligations.TabOffsetsMoveColumn : Prop :=
  ∀ chan : Bool, Tabs (.to1 chan) 1 ∧ Tabs (.to2 chan) 2 ∧ Tabs (.to3 chan) 3

/-- 41_control.md section 1 (decision D6): before a mode is established BS, DER, CR and the tabs write nothing, or
fault, as the policy says. -/
def Obligations.BufferCommandsBeforeMode : Prop :=
  ∀ (i : Instr) (s : State), i.needsBuffer = true → s.active = none →
    (s.params.preModePolicy = .ignore →
      exec i s = .next { s with out := { s.out with ready := false, err := false } })
    ∧ (s.params.preModePolicy = .fault → exec i s = .fault .preModeBufferCommand)

/-- 41_control.md section 5 (FON and the 0x17-group keys by decision D31): the accepted no-ops AOF, AON, FON, TR, RTD,
CTL17_20, CTL17_24_27 and CTL17_28_2F write nothing and are not ready, in any mode. -/
def Obligations.AcceptedNoopsWriteNothing : Prop :=
  ∀ (i : Instr) (s : State), i.isAcceptedNoop = true →
    exec i s = .next { s with out := { s.out with ready := false, err := false } }

/-! ## Preamble and mid-row (42_preamble_midrow.md) -/

/-- 42_preamble_midrow.md section 2 (field positions are general knowledge the spec marks; not ready by decision D32):
a PAC whose row select has a row sets the cursor, style, underline and the active DisplayState's Row and Col. -/
def Obligations.PreambleSetsCursor : Prop :=
  ∀ (chan : Bool) (rs : BitVec 4) (ind : Bool) (a : BitVec 3) (ul : Bool) (s : State) (b : BufSel) (r : Nat),
    s.active = some b → s.params.rowOf rs = some r →
    ∃ t, exec (.pac chan rs ind a ul) s = .next t
      ∧ t.row = r ∧ t.col = (if ind then 4 * a.toNat else 0)
      ∧ t.style = (if ind then 0#3 else a) ∧ t.underline = ul
      ∧ (t.buf b).ds = ⟨(s.buf b).ds.rollupDepth, r, if ind then 4 * a.toNat else 0⟩
      ∧ OnlyFields [.row, .col, .style, .underline, .dsRow b, .dsCol b] s t ∧ OnlyCells NoCell s t
      ∧ Returns t false ∧ t.out.changed = s.out.changed

/-- 42_preamble_midrow.md section 2 (decision D10): a PAC whose row select has no row writes nothing, or is refused, as
the policy says. -/
def Obligations.PreambleInvalidRow : Prop :=
  ∀ (chan : Bool) (rs : BitVec 4) (ind : Bool) (a : BitVec 3) (ul : Bool) (s : State),
    s.active ≠ none → s.params.rowOf rs = none →
    (s.params.pacInvalidRowPolicy = .ignore →
      exec (.pac chan rs ind a ul) s = .next { s with out := { s.out with ready := false, err := false } })
    ∧ (s.params.pacInvalidRowPolicy = .refuse → exec (.pac chan rs ind a ul) s = .refused .pacRowInvalid)

/-- The code points of the default character ROM from an index on, one block of 16 (43_text.md section 3). -/
def glyphBlock (start : Nat) : List Nat := (List.range 16).map fun k => (Params.default.lookup (start + k)).toNat

/-- 42_preamble_midrow.md section 1 and 43_text.md section 3 (both tables are general knowledge the spec marks, D11,
D14, D15; log entry 3): the default row map has a row for every row select but 1, every row once; the character ROM
gives a basic byte its own code point but for ten exceptions, each of the other five blocks of 16 its glyphs, and an
index out of range the replacement glyph. -/
def Obligations.DefaultTables : Prop :=
  Params.default.Legal
    ∧ (∀ rs : BitVec 4, Params.default.rowOf rs = none ↔ rs = 1#4)
    ∧ ((List.range 16).map fun k => Params.default.rowOf (BitVec.ofNat 4 k)) =
        [some (15 - 11), none, some (15 - 1), some (15 - 2), some (15 - 3), some (15 - 4), some (15 - 12),
         some (15 - 13), some (15 - 14), some (15 - 15), some (15 - 5), some (15 - 6), some (15 - 7), some (15 - 8),
         some (15 - 9), some (15 - 10)]
    ∧ (∀ k : Nat, k < 0x60 → k + 0x20 ∉ [0x2A, 0x5C, 0x5E, 0x5F, 0x60, 0x7B, 0x7C, 0x7D, 0x7E, 0x7F] →
        (Params.default.lookup k).toNat = k + 0x20)
    ∧ ([0x2A, 0x5C, 0x5E, 0x5F, 0x60, 0x7B, 0x7C, 0x7D, 0x7E, 0x7F].map fun byte =>
        (Params.default.lookup (byte - 0x20)).toNat) =
          [0xE1, 0xE9, 0xED, 0xF3, 0xFA, 0xE7, 0xF7, 0xD1, 0xF1, 0x2588]
    ∧ glyphBlock 0x60 = [0xAE, 0xB0, 0xBD, 0xBF, 0x2122, 0xA2, 0xA3, 0x266A, 0xE0, 0xA0, 0xE8, 0xE2, 0xEA, 0xEE, 0xF4, 0xFB]
    ∧ glyphBlock 0x70 = [0xC1, 0xC9, 0xD3, 0xDA, 0xDC, 0xFC, 0x2018, 0xA1, 0x2A, 0x2019, 0x2014, 0xA9, 0x2120, 0x2022,
        0x201C, 0x201D]
    ∧ glyphBlock 0x80 = [0xC0, 0xC2, 0xC7, 0xC8, 0xCA, 0xCB, 0xEB, 0xCE, 0xCF, 0xEF, 0xD4, 0xD9, 0xF9, 0xDB, 0xAB, 0xBB]
    ∧ glyphBlock 0x90 = [0xC3, 0xE3, 0xCD, 0xCC, 0xEC, 0xD2, 0xF2, 0xD5, 0xF5, 0x7B, 0x7D, 0x5C, 0x5E, 0x5F, 0x7C, 0x7E]
    ∧ glyphBlock 0xA0 = [0xC4, 0xE4, 0xD6, 0xF6, 0xDF, 0xA5, 0xA4, 0xA6, 0xC5, 0xE5, 0xD8, 0xF8, 0x250C, 0x2510, 0x2514,
        0x2518]
    ∧ ∀ k : Nat, 176 ≤ k → Params.default.lookup k = 0xFFFD#21

/-- 42_preamble_midrow.md section 3 (no cell by decision D34, not ready by D32): a mid-row code sets style and
underline and nothing else. -/
def Obligations.MidRowSetsStyle : Prop :=
  ∀ (chan : Bool) (a : BitVec 3) (ul : Bool) (s : State) (b : BufSel), s.active = some b →
    ∃ t, exec (.mid chan a ul) s = .next t ∧ t.style = a ∧ t.underline = ul
      ∧ OnlyFields [.style, .underline] s t ∧ OnlyCells NoCell s t
      ∧ Returns t false ∧ t.out.changed = s.out.changed

/-! ## Text (43_text.md) -/

/-- The cell a written character leaves (43_text.md section 1). -/
def glyphCell (s : State) (idx : Nat) : Cell := ⟨s.params.lookup idx, s.style, s.underline⟩

/-- 43_text.md section 2 (the glyph is the character table's, D14; `ds.Col` untouched by decision D17, `changed` by
D16): a special character writes the cell under the cursor and advances the column, stopping at 31. -/
def Obligations.SpecialWritesChar : Prop :=
  ∀ (chan : Bool) (k : BitVec 4) (s : State) (b : BufSel), s.active = some b →
    ∃ t, exec (.spc chan k) s = .next t
      ∧ (inRange s.row s.col → t.cellRead b s.row s.col = some (glyphCell s (0x60 + k.toNat)))
      ∧ t.col = min (s.col + 1) 31
      ∧ OnlyCells (fun b' r c => b' = b ∧ r = s.row ∧ c = s.col) s t
      ∧ OnlyFields [.col] s t
      ∧ Returns t (decide (0 < (s.buf b).ds.rollupDepth))
      ∧ (t.out.changed = true ↔ s.out.changed = true ∨
          (inRange s.row s.col ∧ s.cellRead b s.row s.col ≠ some (glyphCell s (0x60 + k.toNat))))

/-- What a WE unit with character index `idx` leaves (43_text.md sections 1 and 2). -/
def ReplacesPrevious (i : Instr) (idx : Nat) : Prop :=
  ∀ (s : State) (b : BufSel), s.active = some b →
    ∃ t, exec i s = .next t
      ∧ (inRange s.row (s.col - 1) → t.cellRead b s.row (s.col - 1) = some (glyphCell s idx))
      ∧ t.col = min (s.col - 1 + 1) 31
      ∧ OnlyCells (fun b' r c => b' = b ∧ r = s.row ∧ c = s.col - 1) s t
      ∧ OnlyFields [.col] s t
      ∧ Returns t (decide (0 < (s.buf b).ds.rollupDepth))
      ∧ (t.out.changed = true ↔ s.out.changed = true ∨ (inRange s.row (s.col - 1) ∧
          (s.cellRead b s.row (s.col - 1) ≠ some Cell.empty ∨ glyphCell s idx ≠ Cell.empty)))

/-- 43_text.md section 2 (the implicit backspace is BS's body by decision D8, channel 2 by D4, the glyph the character
table's, D14, `ds.Col` untouched by D17, `changed` by D16): a WE unit backs up one column, erases, and writes its
character there. -/
def Obligations.WestEuReplacesPrevious : Prop :=
  ∀ (chan : Bool) (k : BitVec 5),
    ReplacesPrevious (.we1 chan k) (0x70 + k.toNat) ∧ ReplacesPrevious (.we2 chan k) (0x90 + k.toNat)

/-- What the second write of a pair finds in its cell: at column 31 the first character, elsewhere what stood there. -/
def secondFinds (s : State) (b : BufSel) (idx : Nat) : Option Cell :=
  if s.col = 31 then some (glyphCell s idx) else s.cellRead b s.row (min (s.col + 1) 31)

/-- What a basic pair leaves (43_text.md sections 1 and 2; `changed` is the OR of the two writes, 40_decode_step.md
section 3, D16: at column 31 both hit one cell, and the second is compared with the first). -/
def WritesPair (i : Instr) (c1 c2 : BitVec 7) : Prop :=
  ∀ (s : State) (b : BufSel), s.active = some b →
    ∃ t, exec i s = .next t
      ∧ Returns t (decide (0 < (s.buf b).ds.rollupDepth))
      ∧ OnlyFields [.col] s t
      ∧ (c2.toNat < 0x20 →
          t.col = min (s.col + 1) 31
          ∧ (inRange s.row s.col → t.cellRead b s.row s.col = some (glyphCell s (c1.toNat - 0x20)))
          ∧ OnlyCells (fun b' r c => b' = b ∧ r = s.row ∧ c = s.col) s t
          ∧ (t.out.changed = true ↔ s.out.changed = true ∨
              (inRange s.row s.col ∧ s.cellRead b s.row s.col ≠ some (glyphCell s (c1.toNat - 0x20)))))
      ∧ (0x20 ≤ c2.toNat →
          t.col = min (min (s.col + 1) 31 + 1) 31
          ∧ (s.row < 15 →
              t.cellRead b s.row (min (s.col + 1) 31) = some (glyphCell s (c2.toNat - 0x20)))
          ∧ (inRange s.row s.col → s.col ≠ 31 →
              t.cellRead b s.row s.col = some (glyphCell s (c1.toNat - 0x20)))
          ∧ OnlyCells (fun b' r c => b' = b ∧ r = s.row ∧ (c = s.col ∨ c = min (s.col + 1) 31)) s t
          ∧ (t.out.changed = true ↔ s.out.changed = true
              ∨ (inRange s.row s.col ∧ s.cellRead b s.row s.col ≠ some (glyphCell s (c1.toNat - 0x20)))
              ∨ (s.row < 15 ∧ secondFinds s b (c1.toNat - 0x20) ≠ some (glyphCell s (c2.toNat - 0x20)))))

/-- 43_text.md section 2 (the low byte is tested as it stands by decision D5, the glyphs are the character table's, D14,
`ds.Col` untouched by D17, `changed` by D16): a basic pair writes the high byte's character, then the low byte's where
it is 0x20 or more; at column 31 the second overwrites the first; `changed` is the OR of the two writes. -/
def Obligations.BasicPairWrites : Prop :=
  ∀ c1 c2 : BitVec 7, WritesPair (.txtA c1 c2) c1 c2 ∧ WritesPair (.txtB c1 c2) c1 c2

/-- R202: a text unit with an active buffer is ready exactly when that buffer's RollupDepth is positive, and no text
write changes the depth. -/
def Obligations.TextReadiness : Prop :=
  ∀ (i : Instr) (s : State) (b : BufSel), i.isText = true → s.active = some b →
    ∃ t, exec i s = .next t
      ∧ (t.out.ready = true ↔ 0 < (t.buf b).ds.rollupDepth)
      ∧ (t.buf b).ds.rollupDepth = (s.buf b).ds.rollupDepth ∧ t.active = some b

/-- 40_decode_step.md section 2 (unclassified units by decision D18): padding and unclassified units write nothing and
are not ready, in any mode. -/
def Obligations.PadAndUnclassifiedIgnored : Prop :=
  ∀ (st : CapUnit) (s : State),
    exec .pad s = .next { s with out := { s.out with ready := false, err := false } }
    ∧ exec (.uncl st) s = .next { s with out := { s.out with ready := false, err := false } }

/-! ## Whole-machine rules -/

/-- 40_decode_step.md section 3 (not-ready of the other classes by decision D32): a decode step is ready exactly when
it executed EDM or EOC, or a text unit with an active buffer whose depth is positive. -/
def Obligations.ReadyExactlyWhen : Prop :=
  ∀ (s t : State) (u : CapUnit) (rest : List PortInput), s.input = .unit u :: rest → step s = .next t →
    (t.out.ready = true ↔ parityOk u = true ∧ ¬ Duplicate s u
      ∧ ((decodeStripped (strip u)).isDisplayEvent = true
        ∨ ((decodeStripped (strip u)).isText = true
            ∧ ∃ b, s.active = some b ∧ 0 < (t.buf b).ds.rollupDepth)))

/-- 40_decode_step.md section 5 and 10_state.md section 6: of a run of one control or special unit, with only padding or
parity failures between its copies, everything after the first copy changes only the count and the ports. -/
def Obligations.RepeatedControlRunsOnce : Prop :=
  ∀ (s t : State) (u : CapUnit) (noise : List CapUnit) (rest : List PortInput),
    (classify (strip u) = .control ∨ classify (strip u) = .special) →
    (∀ v ∈ noise, parityOk v = false ∨ strip v = 0#16) →
    s.input = .unit u :: (noise.map PortInput.unit ++ .unit u :: rest) → step s = .next t →
    runSteps (noise.length + 1) t =
      .next { t with n := t.n + (noise.length + 1), input := rest, out := ⟨true, false, false, false⟩ }

/-- 41_control.md section 2, pop-on isolation, and 45_snapshot.md (that the snapshot's RollupDepth, Row and Col come
from the front buffer is decision D12): while Back is active, no instruction but EDM, EOC, RDC and RU2 to RU4 changes
the front buffer, and so the snapshot. -/
def Obligations.PopOnIsolation : Prop :=
  ∀ (i : Instr) (s t : State), s.active = some .back → exec i s = .next t →
    i.isDisplayEvent = false → i.selects ≠ some .front →
    t.front = s.front ∧ t.snapshot = s.snapshot

/-- R25: a write to one buffer never changes the other. -/
def Obligations.BuffersIndependent : Prop :=
  ∀ (s : State) (b b' : BufSel), b' ≠ b →
    (∀ fb, (s.setBuf b fb).buf b' = s.buf b') ∧ (∀ f, (s.edit b f).buf b' = s.buf b')
    ∧ (∀ r c v, (s.cellWrite b r c v).buf b' = s.buf b') ∧ (∀ ds, (s.setDs b ds).buf b' = s.buf b')

/-- R52 and R54: a write in range replaces that cell and no other, and reports whether it differed; out of range it does
nothing, and a read gives ABSENT. -/
def Obligations.CellWriteThenRead : Prop :=
  ∀ (s : State) (b : BufSel) (r c : Nat) (v : Cell),
    (inRange r c →
      (s.cellWrite b r c v).cellRead b r c = some v
      ∧ ((s.cellWrite b r c v).out.changed = true ↔ s.out.changed = true ∨ s.cellRead b r c ≠ some v))
    ∧ (∀ b' r' c', (b', r', c') ≠ (b, r, c) → (s.cellWrite b r c v).cellRead b' r' c' = s.cellRead b' r' c')
    ∧ (¬ inRange r c → s.cellWrite b r c v = s ∧ s.cellRead b r c = none)

/-! ## Snapshot (45_snapshot.md) -/

/-- What the `snap` port carries of a state with the invariant (45_snapshot.md): every field without loss in its width.
-/
def PortAgrees (s : State) (extra : Nat) : Prop :=
  (s.snapPort extra).mode = (if s.active = none then 0#2 else if 0 < s.front.ds.rollupDepth then 2#2 else 1#2)
    ∧ (s.snapPort extra).rollupDepth.toNat = s.snapshot.rollupDepth
    ∧ (s.snapPort extra).row.toNat = s.snapshot.row
    ∧ ((s.snapPort extra).row = 0#4 ↔ s.snapshot.mode = .unknown)
    ∧ (s.params.tabClamp = true → s.params.colBits extra = 5 ∧ s.snapshot.col < 32)
    ∧ (s.params.tabClamp = false → s.params.colBits extra = 6 + extra)
    ∧ (s.snapshot.col < 2 ^ s.params.colBits extra → (s.snapPort extra).col.toNat = s.snapshot.col)
    ∧ (s.snapPort extra).content = s.snapshot.content
    ∧ s.snapshot.content.all isScalar = true

/-- 45_snapshot.md (RollupDepth, Row and Col from the front buffer and the zero record, by decision D12; the port
encoding by D29, the width of Col without TAB_CLAMP log entry 14): while no buffer is active the snapshot is the zero
record; else Mode is paint-on iff the displayed buffer's depth is positive, the depth is that depth, Row is counted
top-down, Col is that buffer's and Content its rendering. With the invariant Row is then in 1 to 15, and the port
carries every field. -/
def Obligations.SnapshotMode : Prop :=
  ∀ s : State, (s.snapshot.mode = .unknown ↔ s.active = none)
    ∧ (s.active = none → s.snapshot = ⟨.unknown, 0, 0, 0, []⟩)
    ∧ (s.active ≠ none → (s.snapshot.mode = .paintOn ↔ 0 < s.front.ds.rollupDepth)
        ∧ (s.snapshot.mode = .popOn ↔ s.front.ds.rollupDepth = 0)
        ∧ s.snapshot.rollupDepth = s.front.ds.rollupDepth
        ∧ s.snapshot.row = 15 - s.front.ds.row
        ∧ s.snapshot.col = s.front.ds.col
        ∧ s.snapshot.content = render s.params s.front)
    ∧ (s.Inv → (s.active ≠ none → 1 ≤ s.snapshot.row ∧ s.snapshot.row ≤ 15) ∧ ∀ extra, PortAgrees s extra)

/-- 45_snapshot.md (fields from the front buffer by decision D12): the snapshot depends only on whether a buffer is
active, the front's DisplayState and the front's code points: not on styles, underlines, the back buffer, the live
cursor, the last unit or the count. -/
def Obligations.SnapshotSeesFrontOnly : Prop :=
  ∀ s t : State, t.params = s.params → (t.active = none ↔ s.active = none) → t.front.ds = s.front.ds →
    (∀ r c, inRange r c → (t.front.cellAt r c).cp = (s.front.cellAt r c).cp) →
    t.snapshot = s.snapshot

/-- The text of the first `n` cells of a row, column by column (45_snapshot.md). -/
def rowTextTo (p : Params) (fb : FrameBuffer) (r : Nat) : Nat → List CodePoint
  | 0 => []
  | n + 1 =>
    rowTextTo p fb r n ++ if (fb.cellAt r n).cp = 0#21 then p.emptyCellText else [(fb.cellAt r n).cp]

/-- Lines with a break between each two (45_snapshot.md). -/
def joinLines (br : List CodePoint) : List (List CodePoint) → List CodePoint
  | [] => []
  | [l] => l
  | l :: ls => l ++ br ++ joinLines br ls

/-- 45_snapshot.md (EMPTY_CELL_TEXT and LINE_BREAK by decision D13): the rows with a non-empty cell, and no others, are
rendered, the highest internal row first, each in column order with EMPTY_CELL_TEXT for an empty cell, LINE_BREAK
between each two lines and nowhere else; so with EMPTY_CELL_TEXT empty a buffer renders as "" exactly when no cell is
non-empty. -/
def Obligations.EmptyBufferRendersNothing : Prop :=
  ∀ (p : Params) (fb : FrameBuffer),
    (∃ rs : List Nat, rs.Pairwise (· > ·)
      ∧ (∀ r, r ∈ rs ↔ r < 15 ∧ ∃ c, c < 32 ∧ (fb.cellAt r c).cp ≠ 0#21)
      ∧ renderLines p fb = rs.map (fun r => rowTextTo p fb r 32)
      ∧ render p fb = joinLines p.lineBreak (rs.map fun r => rowTextTo p fb r 32))
    ∧ (p.emptyCellText = [] → (render p fb = [] ↔ ∀ r c, inRange r c → (fb.cellAt r c).cp = 0#21))
    ∧ (renderLines p fb).length = ((List.range 15).filter (rowUsed fb)).length

/-- 45_snapshot.md (the port is the spec's decision D1): the cell port reads either buffer, and gives ABSENT exactly at
row 15. -/
def Obligations.CellPortReadsBuffers : Prop :=
  ∀ (s : State) (bit : Bool) (r : BitVec 4) (c : BitVec 5),
    (s.cellPort bit r c = none ↔ r = 15#4)
    ∧ (r ≠ 15#4 →
        s.cellPort bit r c = some ((if bit then s.back else s.front).cellAt r.toNat c.toNat))

/-! ## Roll-up (45_snapshot.md) -/

/-- 45_snapshot.md, roll-up FIFO (guard by decision D26, depth by D36): the roll-up window is kept by every unit other
than a PAC, a mode-establishing command and EDM, so what scrolls past its top is gone. -/
def Obligations.RollupWindowKept : Prop :=
  ∀ (k b : Nat) (s t : State) (u : CapUnit) (rest : List PortInput), 2 ≤ k → RollupWindow k b s →
    s.input = .unit u :: rest → step s = .next t →
    (decodeStripped (strip u)).selects = none → (decodeStripped (strip u)).isDisplayEvent = false →
    (decodeStripped (strip u)).unitClass ≠ .pac →
    RollupWindow k b t

/-- 45_snapshot.md, roll-up FIFO: a roll-up window of depth `k` shows at most `k` lines. -/
def Obligations.RollupShowsAtMostDepth : Prop :=
  ∀ (k b : Nat) (s : State), RollupWindow k b s → (renderLines s.params s.front).length ≤ k

/-! ## Envelope extraction (48_envelope_interface.md) -/

/-- The bytes of envelope entries. -/
def entryBytes (es : List (Octet × Octet × Octet)) : List Octet := es.flatMap fun e => [e.1, e.2.1, e.2.2]

/-- The country code of a payload: one byte other than 0xFF, or 0xFF and an extension byte. -/
def CountryCode (head : List Octet) : Prop := (∃ cc, cc ≠ 0xFF#8 ∧ head = [cc]) ∨ ∃ ext, head = [0xFF#8, ext]

/-- The units of the kept entries: first analog field, valid. -/
def keptUnits (es : List (Octet × Octet × Octet)) : List CapUnit :=
  (es.filter fun e => e.1 &&& 0x07#8 = 0x04#8).map fun e => unitOfBytes e.2.1 e.2.2

/-- 48_envelope_interface.md sections 1 to 3 (entry layout is general knowledge the spec marks; an unrecognised provider
or type by decision D28; unchecked fields by D33; where presented units stand is log entry 5): a well-formed payload of
provider 47, or of 49 with its user identifier, gives the kept entries in order, whatever follows; any cut of it before
its last entry's end is a structural error; so is a buffer shorter than the minimum, and a one-byte buffer; another
provider or type gives no unit and no error; the host presents the units in list order, and none on an error. -/
def Obligations.EnvelopeExtraction : Prop :=
  (∀ (m : Nat) (head uid : List Octet) (hdr res : Octet) (es : List (Octet × Octet × Octet)) (tail : List Octet),
    CountryCode head → uid.length = 4 → (hdr.extractLsb' 0 5).toNat = es.length →
    (m ≤ (head ++ [0x00#8, 0x2F#8, 0x03#8, hdr, res] ++ entryBytes es ++ tail).length →
      extract m (head ++ [0x00#8, 0x2F#8, 0x03#8, hdr, res] ++ entryBytes es ++ tail) = .ok (keptUnits es))
    ∧ (m ≤ (head ++ [0x00#8, 0x31#8] ++ uid ++ [0x03#8, hdr, res] ++ entryBytes es ++ tail).length →
      extract m (head ++ [0x00#8, 0x31#8] ++ uid ++ [0x03#8, hdr, res] ++ entryBytes es ++ tail) = .ok (keptUnits es))
    ∧ (∀ k, k < (head ++ [0x00#8, 0x2F#8, 0x03#8, hdr, res] ++ entryBytes es).length →
        extract m ((head ++ [0x00#8, 0x2F#8, 0x03#8, hdr, res] ++ entryBytes es).take k) = .structural)
    ∧ (∀ k, k < (head ++ [0x00#8, 0x31#8] ++ uid ++ [0x03#8, hdr, res] ++ entryBytes es).length →
        extract m ((head ++ [0x00#8, 0x31#8] ++ uid ++ [0x03#8, hdr, res] ++ entryBytes es).take k) = .structural))
  ∧ (∀ (m : Nat) (head uid : List Octet) (hi lo t : Octet) (tail : List Octet), CountryCode head → uid.length = 4 →
    (unitOfBytes hi lo ≠ 47#16 → unitOfBytes hi lo ≠ 49#16 → m ≤ (head ++ [hi, lo] ++ tail).length →
      extract m (head ++ [hi, lo] ++ tail) = .ok [])
    ∧ (t ≠ 0x03#8 → m ≤ (head ++ [0x00#8, 0x2F#8, t] ++ tail).length →
      extract m (head ++ [0x00#8, 0x2F#8, t] ++ tail) = .ok [])
    ∧ (t ≠ 0x03#8 → m ≤ (head ++ [0x00#8, 0x31#8] ++ uid ++ [t] ++ tail).length →
      extract m (head ++ [0x00#8, 0x31#8] ++ uid ++ [t] ++ tail) = .ok []))
  ∧ (∀ (m : Nat) (buf : List Octet), buf.length < m → extract m buf = .structural)
  ∧ (∀ (m : Nat) (x : Octet), extract m [x] = .structural)
  ∧ (∀ (s : State) (buf : List Octet),
    (∀ us, extract s.params.envelopeMinHeader buf = .ok us →
      s.presentPayload buf = { s with input := s.input ++ us.map PortInput.unit })
    ∧ (extract s.params.envelopeMinHeader buf = .structural → s.presentPayload buf = s))
end

