-- ==== Sys2Proof/Laws/Encoding.lean ====
section
/-! SUPPORT. The laws of parity, stripping and masks that proofs about the decoder cite (30_encoding.md). -/

namespace Sys2Proof

/-- The ROM keeps its index in the low seven bits (R82). -/
theorem romParity_low (v : BitVec 7) : (romParity v).extractLsb' 0 7 = v := by
  revert v; decide +kernel

theorem byteParityOk_romParity (v : BitVec 7) : byteParityOk (romParity v) = true := by
  unfold byteParityOk; rw [romParity_low]; simp

theorem unitOfBytes_getLsbD (hi lo : Octet) (i : Nat) :
    (unitOfBytes hi lo).getLsbD i = if i < 8 then lo.getLsbD i else hi.getLsbD (i - 8) :=
  BitVec.getLsbD_append

theorem highByte_getLsbD (u : CapUnit) (i : Nat) : (highByte u).getLsbD i = (decide (i < 8) && u.getLsbD (8 + i)) :=
  BitVec.getLsbD_extractLsb' 8 8 u i

theorem lowByte_getLsbD (u : CapUnit) (i : Nat) : (lowByte u).getLsbD i = (decide (i < 8) && u.getLsbD i) := by
  have := BitVec.getLsbD_extractLsb' 0 8 u i
  rwa [Nat.zero_add] at this

theorem highByte_unitOfBytes (hi lo : Octet) : highByte (unitOfBytes hi lo) = hi :=
  BitVec.eq_of_getLsbD_eq fun i h => by
    rw [highByte_getLsbD, unitOfBytes_getLsbD, if_neg (by omega), decide_eq_true h, Bool.true_and,
      Nat.add_sub_cancel_left]

theorem lowByte_unitOfBytes (hi lo : Octet) : lowByte (unitOfBytes hi lo) = lo :=
  BitVec.eq_of_getLsbD_eq fun i h => by
    rw [lowByte_getLsbD, unitOfBytes_getLsbD, if_pos h, decide_eq_true h, Bool.true_and]

theorem unitOfBytes_highByte_lowByte (u : CapUnit) : unitOfBytes (highByte u) (lowByte u) = u :=
  BitVec.eq_of_getLsbD_eq fun i h => by
    rw [unitOfBytes_getLsbD, highByte_getLsbD, lowByte_getLsbD]
    by_cases h8 : i < 8
    · simp [h8]
    · simp [h8, show i - 8 < 8 by omega, show 8 + (i - 8) = i by omega]

/-- A unit with parity added passes parity (R104). -/
theorem parityOk_addParity (s : CapUnit) : parityOk (addParity s) = true := by
  unfold parityOk addParity
  rw [highByte_unitOfBytes, lowByte_unitOfBytes, byteParityOk_romParity, byteParityOk_romParity]
  rfl

/-- Stripping undoes the adding of parity (R83, R104). -/
theorem strip_addParity (s : CapUnit) : strip (addParity s) = strip s := by
  have h := romParity_low (s.extractLsb' 8 7)
  have l := romParity_low (s.extractLsb' 0 7)
  unfold strip addParity
  apply BitVec.eq_of_getLsbD_eq
  intro i hi
  have hb : ∀ j, j < 7 → (romParity (s.extractLsb' 8 7)).getLsbD j = s.getLsbD (8 + j) := fun j hj => by
    have := congrArg (·.getLsbD j) h
    simpa [BitVec.getLsbD_extractLsb', hj] using this
  have lb : ∀ j, j < 7 → (romParity (s.extractLsb' 0 7)).getLsbD j = s.getLsbD j := fun j hj => by
    have := congrArg (·.getLsbD j) l
    simpa [BitVec.getLsbD_extractLsb', hj] using this
  rw [BitVec.getLsbD_and, BitVec.getLsbD_and, unitOfBytes_getLsbD]
  by_cases h7 : i = 7
  · subst h7; simp
  · by_cases h15 : i = 15
    · subst h15; simp
    · by_cases h8 : i < 8
      · rw [if_pos h8, lb i (by omega)]
      · rw [if_neg h8, hb (i - 8) (by omega), show 8 + (i - 8) = i by omega]

/-- Bit `i` of a unit matched under a mask that holds bit `i`. -/
theorem bit_of_mask {w : Nat} {s m v : BitVec w} (h : s &&& m = v) (i : Nat) (hm : m.getLsbD i = true) :
    s.getLsbD i = v.getLsbD i := by
  rw [← h, BitVec.getLsbD_and, hm, Bool.and_true]

theorem and_unitOfBytes (h l mh ml : Octet) :
    (unitOfBytes h l) &&& (unitOfBytes mh ml) = unitOfBytes (h &&& mh) (l &&& ml) :=
  BitVec.eq_of_getLsbD_eq fun i _ => by
    rw [BitVec.getLsbD_and, unitOfBytes_getLsbD, unitOfBytes_getLsbD, unitOfBytes_getLsbD, BitVec.getLsbD_and,
      BitVec.getLsbD_and]
    split <;> rfl

/-- A match of a unit under a mask is a match of each byte. -/
theorem mask_bytes (h l mh ml vh vl : Octet) :
    (unitOfBytes h l) &&& (unitOfBytes mh ml) = unitOfBytes vh vl ↔ h &&& mh = vh ∧ l &&& ml = vl := by
  rw [and_unitOfBytes]
  constructor
  · intro e
    have e1 := congrArg highByte e
    have e2 := congrArg lowByte e
    rw [highByte_unitOfBytes, highByte_unitOfBytes] at e1
    rw [lowByte_unitOfBytes, lowByte_unitOfBytes] at e2
    exact ⟨e1, e2⟩
  · rintro ⟨rfl, rfl⟩
    rfl

end Sys2Proof
end

