-- ==== Sys2Proof/Laws/Memory.lean ====
section
/-! SUPPORT. The laws of a buffer's cells: read after write, the canonical form, and what each write sequence of
20_memory.md leaves at every cell. -/

namespace Sys2Proof.Machine

/-! ## The list -/

theorem Memory.get_erase (m : Memory) (k k' : Nat) :
    Memory.get (Memory.erase m k) k' = if k' = k then Memory.unlisted else Memory.get m k' := by
  induction m with
  | nil => simp [Memory.erase, Memory.get]
  | cons e m ih =>
    obtain ⟨a, v⟩ := e
    by_cases h : a = k
    · subst h
      simp only [Memory.erase, List.filter_cons, bne_self_eq_false, Bool.false_eq_true, if_false] at ih ⊢
      rw [ih]
      by_cases hk : k' = a
      · simp [hk]
      · simp [hk, Memory.get, Ne.symm hk]
    · have : (a != k) = true := by simpa using h
      simp only [Memory.erase, List.filter_cons, this, if_true, Memory.get] at ih ⊢
      rw [ih]
      by_cases ha : a = k'
      · subst ha; simp [h]
      · simp [ha]

theorem Memory.get_insert (m : Memory) (k : Nat) (v : Cell) (k' : Nat) (hk : Memory.get m k = Memory.unlisted)
    (hm : ∀ e ∈ m, e.1 ≠ k) :
    Memory.get (Memory.insert m k v) k' = if k' = k then v else Memory.get m k' := by
  induction m with
  | nil =>
    by_cases h : k' = k
    · simp [Memory.insert, Memory.get, h]
    · simp [Memory.insert, Memory.get, h, Ne.symm h]
  | cons e m ih =>
    obtain ⟨a, w⟩ := e
    have ha : a ≠ k := hm (a, w) (by simp)
    by_cases hlt : k < a
    · by_cases h : k' = k
      · simp [Memory.insert, hlt, Memory.get, h]
      · simp [Memory.insert, hlt, Memory.get, h, Ne.symm h]
    · have ih' := ih (by simpa [Memory.get, ha] using hk) (fun e he => hm e (by simp [he]))
      by_cases h : k' = k
      · subst h; simp [Memory.insert, hlt, Memory.get, ha, ih']
      · simp [Memory.insert, hlt, Memory.get, h, ih']

theorem Memory.erase_ne (m : Memory) (k : Nat) : ∀ e ∈ Memory.erase m k, e.1 ≠ k := by
  intro e he
  simpa using (List.mem_filter.mp he).2

/-- Read after write, for any list. -/
theorem Memory.get_set (m : Memory) (k : Nat) (v : Cell) (k' : Nat) :
    Memory.get (Memory.set m k v) k' = if k' = k then v else Memory.get m k' := by
  unfold Memory.set
  by_cases hv : v = Memory.unlisted
  · rw [if_pos hv, Memory.get_erase, hv]
  · rw [if_neg hv, Memory.get_insert _ _ _ _ (by simp [Memory.get_erase]) (Memory.erase_ne m k)]
    by_cases h : k' = k <;> simp [h, Memory.get_erase]

theorem Memory.mem_insert (m : Memory) (k : Nat) (v : Cell) (e : Nat × Cell) :
    e ∈ Memory.insert m k v ↔ e = (k, v) ∨ e ∈ m := by
  induction m with
  | nil => simp [Memory.insert]
  | cons f m ih =>
    obtain ⟨a, w⟩ := f
    by_cases h : k < a
    · simp [Memory.insert, h]
    · simp only [Memory.insert, h, if_false, List.mem_cons, ih]
      tauto

theorem Memory.pairwise_insert (m : Memory) (k : Nat) (v : Cell)
    (hm : m.Pairwise fun a b => a.1 < b.1) (hk : ∀ e ∈ m, e.1 ≠ k) :
    (Memory.insert m k v).Pairwise fun a b => a.1 < b.1 := by
  induction m with
  | nil => simp [Memory.insert]
  | cons f m ih =>
    obtain ⟨a, w⟩ := f
    obtain ⟨h1, h2⟩ := List.pairwise_cons.mp hm
    have hak : a ≠ k := hk (a, w) (by simp)
    by_cases h : k < a
    · simp only [Memory.insert, h, if_true, List.pairwise_cons, List.mem_cons]
      refine ⟨?_, h1, h2⟩
      rintro e (rfl | he)
      · exact h
      · exact lt_trans h (h1 e he)
    · simp only [Memory.insert, h, if_false, List.pairwise_cons]
      refine ⟨?_, ih h2 fun e he => hk e (by simp [he])⟩
      intro e he
      rcases (Memory.mem_insert m k v e).mp he with rfl | he
      · show a < k; omega
      · exact h1 e he

theorem Memory.wf_nil : Memory.wf [] := by simp [Memory.wf]

/-- Every write keeps the canonical form. -/
theorem Memory.wf_set (m : Memory) (k : Nat) (v : Cell) (hm : Memory.wf m) (hk : k < 480) :
    Memory.wf (Memory.set m k v) := by
  have he : Memory.wf (Memory.erase m k) :=
    ⟨hm.1.filter _, fun e he => hm.2 e (List.mem_filter.mp he).1⟩
  unfold Memory.set
  by_cases hv : v = Memory.unlisted
  · rwa [if_pos hv]
  · rw [if_neg hv]
    refine ⟨Memory.pairwise_insert _ _ _ he.1 (Memory.erase_ne m k), fun e h => ?_⟩
    rcases (Memory.mem_insert _ _ _ e).mp h with rfl | h
    · exact ⟨hk, hv⟩
    · exact he.2 e h

/-- What a write can leave in the list: the cell written and entries that were there. -/
theorem Memory.mem_set (m : Memory) (k : Nat) (v : Cell) (e : Nat × Cell) (h : e ∈ Memory.set m k v) :
    e = (k, v) ∨ e ∈ m := by
  unfold Memory.set at h
  by_cases hv : v = Memory.unlisted
  · rw [if_pos hv] at h
    exact Or.inr (List.mem_filter.mp h).1
  · rw [if_neg hv] at h
    rcases (Memory.mem_insert _ _ _ e).mp h with h | h
    · exact Or.inl h
    · exact Or.inr (List.mem_filter.mp h).1

theorem Memory.get_of_lt (m : Memory) (k : Nat) (h : ∀ e ∈ m, k < e.1) : Memory.get m k = Memory.unlisted := by
  induction m with
  | nil => rfl
  | cons e m ih =>
    obtain ⟨a, v⟩ := e
    have : k < a := h (a, v) (by simp)
    rw [Memory.get, if_neg (by omega), ih fun e he => h e (by simp [he])]

theorem Memory.get_mem (m : Memory) (hm : Memory.wf m) (e : Nat × Cell) (he : e ∈ m) : Memory.get m e.1 = e.2 := by
  induction m with
  | nil => simp at he
  | cons f m ih =>
    obtain ⟨a, v⟩ := f
    obtain ⟨h1, h2⟩ := List.pairwise_cons.mp hm.1
    rcases List.mem_cons.mp he with rfl | he'
    · simp [Memory.get]
    · have : a < e.1 := h1 e he'
      rw [Memory.get, if_neg (by omega), ih ⟨h2, fun e he => hm.2 e (by simp [he])⟩ he']

theorem Memory.mem_of_get (m : Memory) (k : Nat) (h : Memory.get m k ≠ Memory.unlisted) :
    (k, Memory.get m k) ∈ m := by
  induction m with
  | nil => exact absurd rfl h
  | cons e m ih =>
    obtain ⟨a, v⟩ := e
    by_cases ha : a = k
    · subst ha; simp [Memory.get]
    · rw [Memory.get, if_neg ha] at h ⊢
      exact List.mem_cons_of_mem _ (ih h)

theorem Memory.mem_iff_get (m : Memory) (hm : Memory.wf m) (k : Nat) (v : Cell) :
    (k, v) ∈ m ↔ Memory.get m k = v ∧ v ≠ Memory.unlisted := by
  constructor
  · exact fun h => ⟨Memory.get_mem m hm _ h, (hm.2 _ h).2⟩
  · rintro ⟨rfl, hv⟩
    exact Memory.mem_of_get m k hv

/-- Canonical lists that read alike are equal: equal memories are equal data. -/
theorem Memory.ext_of_get (m m' : Memory) (h : Memory.wf m) (h' : Memory.wf m')
    (hg : ∀ k, k < 480 → Memory.get m k = Memory.get m' k) : m = m' := by
  have mem : ∀ e, e ∈ m ↔ e ∈ m' := by
    rintro ⟨k, v⟩
    rw [Memory.mem_iff_get m h, Memory.mem_iff_get m' h']
    by_cases hk : k < 480
    · rw [hg k hk]
    · have out : ∀ m : Memory, Memory.wf m → Memory.get m k = Memory.unlisted := fun m hm => by
        by_contra hc
        exact hk (hm.2 _ (Memory.mem_of_get m k hc)).1
      rw [out m h, out m' h']
  have nodup : ∀ m : Memory, Memory.wf m → m.Nodup := fun m hm =>
    hm.1.imp fun {a b} hab hc => by rw [hc] at hab; exact lt_irrefl _ hab
  have perm : m.Perm m' := (List.perm_ext_iff_of_nodup (nodup m h) (nodup m' h')).mpr mem
  exact perm.eq_of_pairwise (fun a b _ _ hab hba => absurd hab (by omega)) h.1 h'.1

/-! ## Cell addresses -/

theorem cellAddr_inj {r c r' c' : Nat} (hc : c < 32) (hc' : c' < 32) :
    cellAddr r c = cellAddr r' c' ↔ r = r' ∧ c = c' := by
  unfold cellAddr; omega

theorem cellAddr_lt {r c : Nat} (h : inRange r c) : cellAddr r c < 480 := by
  obtain ⟨h1, h2⟩ := h
  unfold cellAddr; omega

/-! ## The writer -/

/-- The cell a writer holds at `(r, c)`. -/
def Writer.at (w : Writer) (r c : Nat) : Cell := Memory.get w.cells (cellAddr r c)

/-- `CellWrite` then read (R53, R54). -/
theorem Writer.write_at (w : Writer) (r c : Nat) (v : Cell) (r' c' : Nat) (hc' : c' < 32) :
    (w.write r c v).at r' c' = if r' = r ∧ c' = c ∧ inRange r c then v else w.at r' c' := by
  unfold Writer.write Writer.at
  by_cases h : inRange r c
  · rw [if_pos h]
    simp only [Memory.get_set, cellAddr_inj hc' h.2]
    by_cases h1 : r' = r ∧ c' = c
    · rw [if_pos h1, if_pos ⟨h1.1, h1.2, h⟩]
    · rw [if_neg h1, if_neg fun hh => h1 ⟨hh.1, hh.2.1⟩]
  · rw [if_neg h, if_neg fun hh => h hh.2.2]

/-- What `CellWrite` returns (R54), ORed into `chg`. -/
theorem Writer.write_chg (w : Writer) (r c : Nat) (v : Cell) :
    (w.write r c v).chg = true ↔ w.chg = true ∨ (inRange r c ∧ w.at r c ≠ v) := by
  unfold Writer.write Writer.at
  by_cases h : inRange r c
  · rw [if_pos h]; simp only [Bool.or_eq_true, bne_iff_ne, and_iff_right h]
  · rw [if_neg h]; simp only [h, false_and, or_false]

/-- The `chg` of a write sequence from `w0` to `w` says exactly whether some in-range cell differs: true of any
sequence that writes no cell twice. -/
def Writer.Tracks (w0 w : Writer) : Prop :=
  w.chg = true ↔ w0.chg = true ∨ ∃ r c, inRange r c ∧ w.at r c ≠ w0.at r c

theorem Writer.tracks_refl (w : Writer) : w.Tracks w := by simp [Writer.Tracks]

theorem Writer.tracks_write (w : Writer) (r c : Nat) (v : Cell) : w.Tracks (w.write r c v) := by
  rw [Writer.Tracks, Writer.write_chg]
  refine or_congr_right ⟨fun ⟨h, hne⟩ => ⟨r, c, h, ?_⟩, fun ⟨r', c', h, hne⟩ => ?_⟩
  · rw [Writer.write_at _ _ _ _ _ _ h.2, if_pos ⟨rfl, rfl, h⟩]; exact hne.symm
  · rw [Writer.write_at _ _ _ _ _ _ h.2] at hne
    split at hne
    · next hh => obtain ⟨rfl, rfl, hr⟩ := hh; exact ⟨hr, hne.symm⟩
    · exact absurd rfl hne

/-- Two write sequences in a row that touch different cells. -/
theorem Writer.tracks_trans {w0 w1 w2 : Writer} (h1 : w0.Tracks w1) (h2 : w1.Tracks w2)
    (hd : ∀ r c, inRange r c → w1.at r c = w0.at r c ∨ w2.at r c = w1.at r c) : w0.Tracks w2 := by
  unfold Writer.Tracks at h1 h2 ⊢
  rw [h2, h1, or_assoc]
  refine or_congr_right ⟨?_, ?_⟩
  · rintro (⟨r, c, hr, hne⟩ | ⟨r, c, hr, hne⟩)
    · rcases hd r c hr with h | h
      · exact absurd h hne
      · exact ⟨r, c, hr, by rwa [h]⟩
    · rcases hd r c hr with h | h
      · exact ⟨r, c, hr, by rwa [← h]⟩
      · exact absurd h hne
  · rintro ⟨r, c, hr, hne⟩
    by_cases h : w2.at r c = w1.at r c
    · exact Or.inl ⟨r, c, hr, by rwa [← h]⟩
    · exact Or.inr ⟨r, c, hr, h⟩

/-- A run of writes along row `r`, column `c` taking `f c`. -/
def Writer.writeRow (w : Writer) (r : Nat) (f : Nat → Cell) (cs : List Nat) : Writer :=
  cs.foldl (fun w c => w.write r c (f c)) w

theorem Writer.writeRow_at (w : Writer) (r : Nat) (f : Nat → Cell) (cs : List Nat) (r' c' : Nat) (hc' : c' < 32) :
    (w.writeRow r f cs).at r' c' = if r' = r ∧ c' ∈ cs ∧ r < 15 then f c' else w.at r' c' := by
  induction cs generalizing w with
  | nil => simp [Writer.writeRow]
  | cons c cs ih =>
    rw [Writer.writeRow, List.foldl_cons, ← Writer.writeRow, ih, Writer.write_at _ _ _ _ _ _ hc']
    by_cases h1 : r' = r ∧ c' ∈ cs ∧ r < 15
    · rw [if_pos h1, if_pos ⟨h1.1, List.mem_cons_of_mem _ h1.2.1, h1.2.2⟩]
    · rw [if_neg h1]
      by_cases h2 : r' = r ∧ c' = c ∧ inRange r c
      · obtain ⟨rfl, rfl, h3⟩ := h2
        rw [if_pos ⟨rfl, rfl, h3⟩, if_pos ⟨rfl, by simp, h3.1⟩]
      · rw [if_neg h2, if_neg]
        rintro ⟨rfl, hm, hr⟩
        rcases List.mem_cons.mp hm with rfl | hm
        · exact h2 ⟨rfl, rfl, hr, hc'⟩
        · exact h1 ⟨rfl, hm, hr⟩

theorem Writer.tracks_writeRow (w : Writer) (r : Nat) (f : Nat → Cell) (cs : List Nat) (hcs : cs.Nodup) :
    w.Tracks (w.writeRow r f cs) := by
  induction cs generalizing w with
  | nil => exact w.tracks_refl
  | cons c cs ih =>
    obtain ⟨hn, hcs⟩ := List.nodup_cons.mp hcs
    refine Writer.tracks_trans (w1 := w.write r c (f c)) (w.tracks_write r c (f c)) (ih _ hcs) fun r' c' h => ?_
    by_cases hh : r' = r ∧ c' = c
    · right
      refine (Writer.writeRow_at _ r f cs r' c' h.2).trans (if_neg ?_)
      rintro ⟨-, hm, -⟩
      exact hn (hh.2 ▸ hm)
    · left
      rw [Writer.write_at _ _ _ _ _ _ h.2, if_neg fun x => hh ⟨x.1, x.2.1⟩]

/-! ## What each sequence leaves (R55, R56, R59, R60) -/

theorem Writer.clearCells_eq (w : Writer) (r c0 c1 : Nat) :
    w.clearCells r c0 c1 =
      w.writeRow r (fun _ => Cell.empty) ((List.range 32).filter fun c => c0 ≤ c && c < c1) := rfl

/-- `ClearCells` (R55). -/
theorem Writer.clearCells_at (w : Writer) (r c0 c1 r' c' : Nat) (h : inRange r' c') :
    (w.clearCells r c0 c1).at r' c' = if r' = r ∧ c0 ≤ c' ∧ c' < c1 then Cell.empty else w.at r' c' := by
  rw [Writer.clearCells_eq, Writer.writeRow_at _ _ _ _ _ _ h.2]
  refine if_congr ?_ rfl rfl
  have := h.1; have := h.2
  simp only [List.mem_filter, List.mem_range, Bool.and_eq_true, decide_eq_true_eq]
  constructor
  · rintro ⟨h1, ⟨_, h2⟩, _⟩; exact ⟨h1, h2⟩
  · rintro ⟨h1, h2⟩; exact ⟨h1, ⟨h.2, h2⟩, h1 ▸ h.1⟩

theorem Writer.tracks_clearCells (w : Writer) (r c0 c1 : Nat) : w.Tracks (w.clearCells r c0 c1) := by
  rw [Writer.clearCells_eq]
  exact w.tracks_writeRow _ _ _ (List.nodup_range.filter _)

/-- `ClearRow` (R55). -/
theorem Writer.clearRow_at (w : Writer) (r r' c' : Nat) (h : inRange r' c') :
    (w.clearRow r).at r' c' = if r' = r then Cell.empty else w.at r' c' := by
  rw [Writer.clearRow, Writer.clearCells_at _ _ _ _ _ _ h]
  refine if_congr ⟨fun x => x.1, fun x => ⟨x, by omega, h.2⟩⟩ rfl rfl

theorem Writer.clearRows_at (w : Writer) (rs : List Nat) (r' c' : Nat) (h : inRange r' c') :
    (rs.foldl Writer.clearRow w).at r' c' = if r' ∈ rs then Cell.empty else w.at r' c' := by
  induction rs generalizing w with
  | nil => simp
  | cons r rs ih =>
    rw [List.foldl_cons, ih, Writer.clearRow_at _ _ _ _ h]
    by_cases h1 : r' ∈ rs
    · simp [h1]
    · by_cases h2 : r' = r <;> simp [h1, h2]

theorem Writer.tracks_clearRows (w : Writer) (rs : List Nat) (hrs : rs.Nodup) :
    w.Tracks (rs.foldl Writer.clearRow w) := by
  induction rs generalizing w with
  | nil => exact w.tracks_refl
  | cons r rs ih =>
    obtain ⟨hn, hrs⟩ := List.nodup_cons.mp hrs
    refine Writer.tracks_trans (w1 := w.clearRow r) (w.tracks_clearCells r 0 32) (ih _ hrs) fun r' c' h => ?_
    by_cases hh : r' = r
    · right; exact (Writer.clearRows_at _ rs r' c' h).trans (if_neg (hh ▸ hn))
    · left; exact (Writer.clearRow_at w r r' c' h).trans (if_neg hh)

/-- `ClearBuffer`'s cells (R56): every in-range cell EMPTY. -/
theorem Writer.clearAll_at (w : Writer) (r c : Nat) (h : inRange r c) : w.clearAll.at r c = Cell.empty := by
  rw [Writer.clearAll, Writer.clearRows_at _ _ _ _ h, if_pos (by simpa using h.1)]

theorem Writer.tracks_clearAll (w : Writer) : w.Tracks w.clearAll := w.tracks_clearRows _ List.nodup_range

theorem Writer.copyRow_eq (w : Writer) (dst src : Nat) (h : dst ≠ src) :
    w.copyRow dst src = w.writeRow dst (fun c => w.at src c) (List.range 32) := by
  have gen : ∀ (cs : List Nat) (w' : Writer), (∀ c ∈ cs, c < 32) → (∀ c, c < 32 → w'.at src c = w.at src c) →
      cs.foldl (fun w c => w.write dst c (Memory.get w.cells (cellAddr src c))) w'
        = w'.writeRow dst (fun c => w.at src c) cs := by
    intro cs
    induction cs with
    | nil => intro w' _ _; rfl
    | cons c cs ih =>
      intro w' hcs hw
      have hc : c < 32 := hcs c (by simp)
      rw [List.foldl_cons, Writer.writeRow, List.foldl_cons, ← Writer.writeRow, ← hw c hc]
      refine ih _ (fun c hc => hcs c (by simp [hc])) fun c' hc' => ?_
      rw [← hw c' hc', Writer.at, ← Writer.at, Writer.write_at _ _ _ _ _ _ hc', if_neg fun x => h x.1.symm]
  exact gen _ w (fun c hc => List.mem_range.mp hc) fun _ _ => rfl

theorem Writer.copyRow_at (w : Writer) (dst src r' c' : Nat) (h : dst ≠ src) (hr : inRange r' c') :
    (w.copyRow dst src).at r' c' = if r' = dst then w.at src c' else w.at r' c' := by
  rw [Writer.copyRow_eq _ _ _ h, Writer.writeRow_at _ _ _ _ _ _ hr.2]
  refine if_congr ⟨fun x => x.1, fun x => ⟨x, by simpa using hr.2, x ▸ hr.1⟩⟩ rfl rfl

theorem Writer.tracks_copyRow (w : Writer) (dst src : Nat) (h : dst ≠ src) : w.Tracks (w.copyRow dst src) := by
  rw [Writer.copyRow_eq _ _ _ h]
  exact w.tracks_writeRow _ _ _ List.nodup_range

/-- R59's loop: each row of the window above the base takes the row below it. -/
theorem Writer.copyUp_at (w : Writer) (row k r' c' : Nat) (hr : inRange r' c') :
    (w.copyUp row k).at r' c' = if row < r' ∧ r' ≤ row + k then w.at (r' - 1) c' else w.at r' c' := by
  induction k generalizing w with
  | zero =>
    rw [Writer.copyUp, if_neg]
    omega
  | succ k ih =>
    have hr1 : inRange (r' - 1) c' := ⟨by have := hr.1; omega, hr.2⟩
    rw [Writer.copyUp, ih, Writer.copyRow_at _ _ _ _ _ (by omega) hr1, Writer.copyRow_at _ _ _ _ _ (by omega) hr]
    by_cases h1 : row < r' ∧ r' ≤ row + k
    · rw [if_pos h1, if_neg (by omega), if_pos (by omega)]
    · rw [if_neg h1]
      by_cases h2 : r' = row + (k + 1)
      · subst h2
        rw [if_pos rfl, if_pos ⟨by omega, by omega⟩]
        rfl
      · rw [if_neg h2, if_neg (by omega)]

theorem Writer.tracks_copyUp (w : Writer) (row k : Nat) : w.Tracks (w.copyUp row k) := by
  induction k generalizing w with
  | zero => exact w.tracks_refl
  | succ k ih =>
    refine Writer.tracks_trans (w1 := w.copyRow (row + (k + 1)) (row + k)) (w.tracks_copyRow _ _ (by omega)) (ih _) fun r c h => ?_
    by_cases hr : r = row + (k + 1)
    · right; exact (Writer.copyUp_at _ row k r c h).trans (if_neg (by omega))
    · left; rw [Writer.copyRow_at _ _ _ _ _ (by omega) h, if_neg hr]

/-- `RollupShift` (R59) at every cell, with R60's cases. -/
theorem Writer.rollupShift_at (w : Writer) (row depth r c : Nat) (h : inRange r c) :
    (w.rollupShift row depth).at r c =
      if row + depth > 15 ∨ row + depth = 0 then w.at r c
      else if r = row then Cell.empty
      else if row < r ∧ r < row + depth then w.at (r - 1) c
      else w.at r c := by
  unfold Writer.rollupShift
  by_cases hg : row + depth > 15 ∨ row + depth = 0
  · rw [if_pos (by omega), if_pos hg]
  · rw [if_neg (by omega), if_neg hg, Writer.clearRow_at _ _ _ _ h]
    by_cases h1 : r = row
    · rw [if_pos h1, if_pos h1]
    · rw [if_neg h1, if_neg h1, Writer.copyUp_at _ _ _ _ _ h]
      exact if_congr (by omega) rfl rfl

theorem Writer.tracks_rollupShift (w : Writer) (row depth : Nat) : w.Tracks (w.rollupShift row depth) := by
  unfold Writer.rollupShift
  by_cases hg : row + depth > 15 ∨ row + depth ≤ 0
  · rw [if_pos hg]; exact w.tracks_refl
  · rw [if_neg hg]
    refine Writer.tracks_trans (w1 := w.copyUp row (depth - 1)) (w.tracks_copyUp _ _)
      (Writer.tracks_clearCells _ row 0 32) fun r c h => ?_
    by_cases hr : r = row
    · left; rw [Writer.copyUp_at _ _ _ _ _ h, if_neg (by omega)]
    · right; exact (Writer.clearRow_at _ row r c h).trans (if_neg hr)

/-! ## What a writer keeps -/

/-- A property of the list that every in-range write keeps is kept by every operation on the writer. -/
structure Writer.Kept (P : Memory → Prop) : Prop where
  write : ∀ m k v, P m → k < 480 → (v = Cell.empty ∨ (∃ e ∈ m, v = e.2)) → P (Memory.set m k v)

theorem Writer.kept_write {P : Memory → Prop} (hP : Writer.Kept P) (w : Writer) (r c : Nat) (v : Cell)
    (h : P w.cells) (hv : v = Cell.empty ∨ ∃ e ∈ w.cells, v = e.2) : P (w.write r c v).cells := by
  unfold Writer.write
  by_cases hr : inRange r c
  · rw [if_pos hr]; exact hP.write _ _ _ h (cellAddr_lt hr) hv
  · rwa [if_neg hr]

theorem Memory.get_kept (m : Memory) (k : Nat) : Memory.get m k = Cell.empty ∨ ∃ e ∈ m, Memory.get m k = e.2 := by
  by_cases h : Memory.get m k = Memory.unlisted
  · exact Or.inl h
  · exact Or.inr ⟨_, Memory.mem_of_get m k h, rfl⟩

theorem Writer.kept_foldl {P : Memory → Prop} (f : Writer → Nat → Writer)
    (hf : ∀ w c, P w.cells → P (f w c).cells) (cs : List Nat) (w : Writer) (h : P w.cells) :
    P (cs.foldl f w).cells := by
  induction cs generalizing w with
  | nil => exact h
  | cons c cs ih => exact ih _ (hf w c h)

theorem Writer.kept_clearCells {P : Memory → Prop} (hP : Writer.Kept P) (w : Writer) (r c0 c1 : Nat)
    (h : P w.cells) : P (w.clearCells r c0 c1).cells :=
  Writer.kept_foldl _ (fun w c hw => Writer.kept_write hP w r c _ hw (Or.inl rfl)) _ w h

theorem Writer.kept_clearAll {P : Memory → Prop} (hP : Writer.Kept P) (w : Writer) (h : P w.cells) :
    P w.clearAll.cells :=
  Writer.kept_foldl _ (fun w r hw => Writer.kept_clearCells hP w r 0 32 hw) _ w h

theorem Writer.kept_copyRow {P : Memory → Prop} (hP : Writer.Kept P) (w : Writer) (dst src : Nat)
    (h : P w.cells) : P (w.copyRow dst src).cells :=
  Writer.kept_foldl _ (fun w c hw => Writer.kept_write hP w dst c _ hw (Memory.get_kept _ _)) _ w h

theorem Writer.kept_copyUp {P : Memory → Prop} (hP : Writer.Kept P) (w : Writer) (row k : Nat)
    (h : P w.cells) : P (w.copyUp row k).cells := by
  induction k generalizing w with
  | zero => exact h
  | succ k ih => exact ih _ (Writer.kept_copyRow hP w _ _ h)

theorem Writer.kept_rollupShift {P : Memory → Prop} (hP : Writer.Kept P) (w : Writer) (row depth : Nat)
    (h : P w.cells) : P (w.rollupShift row depth).cells := by
  unfold Writer.rollupShift
  by_cases hg : row + depth > 15 ∨ row + depth ≤ 0
  · rwa [if_pos hg]
  · rw [if_neg hg]; exact Writer.kept_clearCells hP _ _ _ _ (Writer.kept_copyUp hP w _ _ h)

/-- The canonical form is kept by every write, so by every operation. -/
theorem Memory.kept_wf : Writer.Kept Memory.wf := ⟨fun m k v hm hk _ => Memory.wf_set m k v hm hk⟩

/-- So is any property of the cells that EMPTY has. -/
theorem Memory.kept_all (Q : Cell → Prop) (hQ : Q Cell.empty) : Writer.Kept fun m => ∀ e ∈ m, Q e.2 :=
  ⟨fun m k v hm _ hv e he => by
    rcases Memory.mem_set m k v e he with rfl | he
    · rcases hv with rfl | ⟨e', he', rfl⟩
      · exact hQ
      · exact hm e' he'
    · exact hm e he⟩

end Sys2Proof.Machine
end

