-- ==== Sys2Proof/Laws/State.lean ====
section
/-! SUPPORT. One lemma per field per update of the state, so that no proof unfolds a record update. -/

namespace Sys2Proof.Machine

theorem State.buf_front (s : State) : s.buf .front = s.front := rfl
theorem State.buf_back (s : State) : s.buf .back = s.back := rfl

/-! ### setBuf -/

@[simp] theorem State.setBuf_active (s : State) (b : BufSel) (fb : FrameBuffer) : (s.setBuf b fb).active = s.active := by cases b <;> rfl
@[simp] theorem State.setBuf_row (s : State) (b : BufSel) (fb : FrameBuffer) : (s.setBuf b fb).row = s.row := by cases b <;> rfl
@[simp] theorem State.setBuf_col (s : State) (b : BufSel) (fb : FrameBuffer) : (s.setBuf b fb).col = s.col := by cases b <;> rfl
@[simp] theorem State.setBuf_style (s : State) (b : BufSel) (fb : FrameBuffer) : (s.setBuf b fb).style = s.style := by cases b <;> rfl
@[simp] theorem State.setBuf_underline (s : State) (b : BufSel) (fb : FrameBuffer) : (s.setBuf b fb).underline = s.underline := by cases b <;> rfl
@[simp] theorem State.setBuf_last (s : State) (b : BufSel) (fb : FrameBuffer) : (s.setBuf b fb).last = s.last := by cases b <;> rfl
@[simp] theorem State.setBuf_n (s : State) (b : BufSel) (fb : FrameBuffer) : (s.setBuf b fb).n = s.n := by cases b <;> rfl
@[simp] theorem State.setBuf_params (s : State) (b : BufSel) (fb : FrameBuffer) : (s.setBuf b fb).params = s.params := by cases b <;> rfl
@[simp] theorem State.setBuf_input (s : State) (b : BufSel) (fb : FrameBuffer) : (s.setBuf b fb).input = s.input := by cases b <;> rfl
@[simp] theorem State.setBuf_out (s : State) (b : BufSel) (fb : FrameBuffer) : (s.setBuf b fb).out = s.out := by cases b <;> rfl

@[simp] theorem State.setBuf_buf (s : State) (b b' : BufSel) (fb : FrameBuffer) :
    (s.setBuf b fb).buf b' = if b' = b then fb else s.buf b' := by cases b <;> cases b' <;> rfl

/-! ### setDs -/

@[simp] theorem State.setDs_active (s : State) (b : BufSel) (ds : DisplayState) : (s.setDs b ds).active = s.active := by simp [State.setDs]
@[simp] theorem State.setDs_row (s : State) (b : BufSel) (ds : DisplayState) : (s.setDs b ds).row = s.row := by simp [State.setDs]
@[simp] theorem State.setDs_col (s : State) (b : BufSel) (ds : DisplayState) : (s.setDs b ds).col = s.col := by simp [State.setDs]
@[simp] theorem State.setDs_style (s : State) (b : BufSel) (ds : DisplayState) : (s.setDs b ds).style = s.style := by simp [State.setDs]
@[simp] theorem State.setDs_underline (s : State) (b : BufSel) (ds : DisplayState) : (s.setDs b ds).underline = s.underline := by simp [State.setDs]
@[simp] theorem State.setDs_last (s : State) (b : BufSel) (ds : DisplayState) : (s.setDs b ds).last = s.last := by simp [State.setDs]
@[simp] theorem State.setDs_n (s : State) (b : BufSel) (ds : DisplayState) : (s.setDs b ds).n = s.n := by simp [State.setDs]
@[simp] theorem State.setDs_params (s : State) (b : BufSel) (ds : DisplayState) : (s.setDs b ds).params = s.params := by simp [State.setDs]
@[simp] theorem State.setDs_input (s : State) (b : BufSel) (ds : DisplayState) : (s.setDs b ds).input = s.input := by simp [State.setDs]
@[simp] theorem State.setDs_out (s : State) (b : BufSel) (ds : DisplayState) : (s.setDs b ds).out = s.out := by simp [State.setDs]

@[simp] theorem State.setDs_buf_ds (s : State) (b : BufSel) (ds : DisplayState) (b' : BufSel) :
    ((s.setDs b ds).buf b').ds = if b' = b then ds else (s.buf b').ds := by
  cases b <;> cases b' <;> rfl
@[simp] theorem State.setDs_buf_cells (s : State) (b : BufSel) (ds : DisplayState) (b' : BufSel) :
    ((s.setDs b ds).buf b').cells = (s.buf b').cells := by
  cases b <;> cases b' <;> rfl

/-! ### setDepth -/

@[simp] theorem State.setDepth_active (s : State) (b : BufSel) (d : Nat) : (s.setDepth b d).active = s.active := by simp [State.setDepth]
@[simp] theorem State.setDepth_row (s : State) (b : BufSel) (d : Nat) : (s.setDepth b d).row = s.row := by simp [State.setDepth]
@[simp] theorem State.setDepth_col (s : State) (b : BufSel) (d : Nat) : (s.setDepth b d).col = s.col := by simp [State.setDepth]
@[simp] theorem State.setDepth_style (s : State) (b : BufSel) (d : Nat) : (s.setDepth b d).style = s.style := by simp [State.setDepth]
@[simp] theorem State.setDepth_underline (s : State) (b : BufSel) (d : Nat) : (s.setDepth b d).underline = s.underline := by simp [State.setDepth]
@[simp] theorem State.setDepth_last (s : State) (b : BufSel) (d : Nat) : (s.setDepth b d).last = s.last := by simp [State.setDepth]
@[simp] theorem State.setDepth_n (s : State) (b : BufSel) (d : Nat) : (s.setDepth b d).n = s.n := by simp [State.setDepth]
@[simp] theorem State.setDepth_params (s : State) (b : BufSel) (d : Nat) : (s.setDepth b d).params = s.params := by simp [State.setDepth]
@[simp] theorem State.setDepth_input (s : State) (b : BufSel) (d : Nat) : (s.setDepth b d).input = s.input := by simp [State.setDepth]
@[simp] theorem State.setDepth_out (s : State) (b : BufSel) (d : Nat) : (s.setDepth b d).out = s.out := by simp [State.setDepth]

@[simp] theorem State.setDepth_buf_ds (s : State) (b : BufSel) (d : Nat) (b' : BufSel) :
    ((s.setDepth b d).buf b').ds = if b' = b then { (s.buf b).ds with rollupDepth := d } else (s.buf b').ds := by
  simp [State.setDepth]
@[simp] theorem State.setDepth_buf_cells (s : State) (b : BufSel) (d : Nat) (b' : BufSel) :
    ((s.setDepth b d).buf b').cells = (s.buf b').cells := by
  simp [State.setDepth]

/-! ### setDsCol -/

@[simp] theorem State.setDsCol_active (s : State) (b : BufSel) (c : Nat) : (s.setDsCol b c).active = s.active := by simp [State.setDsCol]
@[simp] theorem State.setDsCol_row (s : State) (b : BufSel) (c : Nat) : (s.setDsCol b c).row = s.row := by simp [State.setDsCol]
@[simp] theorem State.setDsCol_col (s : State) (b : BufSel) (c : Nat) : (s.setDsCol b c).col = s.col := by simp [State.setDsCol]
@[simp] theorem State.setDsCol_style (s : State) (b : BufSel) (c : Nat) : (s.setDsCol b c).style = s.style := by simp [State.setDsCol]
@[simp] theorem State.setDsCol_underline (s : State) (b : BufSel) (c : Nat) : (s.setDsCol b c).underline = s.underline := by simp [State.setDsCol]
@[simp] theorem State.setDsCol_last (s : State) (b : BufSel) (c : Nat) : (s.setDsCol b c).last = s.last := by simp [State.setDsCol]
@[simp] theorem State.setDsCol_n (s : State) (b : BufSel) (c : Nat) : (s.setDsCol b c).n = s.n := by simp [State.setDsCol]
@[simp] theorem State.setDsCol_params (s : State) (b : BufSel) (c : Nat) : (s.setDsCol b c).params = s.params := by simp [State.setDsCol]
@[simp] theorem State.setDsCol_input (s : State) (b : BufSel) (c : Nat) : (s.setDsCol b c).input = s.input := by simp [State.setDsCol]
@[simp] theorem State.setDsCol_out (s : State) (b : BufSel) (c : Nat) : (s.setDsCol b c).out = s.out := by simp [State.setDsCol]

@[simp] theorem State.setDsCol_buf_ds (s : State) (b : BufSel) (c : Nat) (b' : BufSel) :
    ((s.setDsCol b c).buf b').ds = if b' = b then { (s.buf b).ds with col := c } else (s.buf b').ds := by
  simp [State.setDsCol]
@[simp] theorem State.setDsCol_buf_cells (s : State) (b : BufSel) (c : Nat) (b' : BufSel) :
    ((s.setDsCol b c).buf b').cells = (s.buf b').cells := by
  simp [State.setDsCol]

/-! ### setDsCursor -/

@[simp] theorem State.setDsCursor_active (s : State) (b : BufSel) (r c : Nat) : (s.setDsCursor b r c).active = s.active := by simp [State.setDsCursor]
@[simp] theorem State.setDsCursor_row (s : State) (b : BufSel) (r c : Nat) : (s.setDsCursor b r c).row = s.row := by simp [State.setDsCursor]
@[simp] theorem State.setDsCursor_col (s : State) (b : BufSel) (r c : Nat) : (s.setDsCursor b r c).col = s.col := by simp [State.setDsCursor]
@[simp] theorem State.setDsCursor_style (s : State) (b : BufSel) (r c : Nat) : (s.setDsCursor b r c).style = s.style := by simp [State.setDsCursor]
@[simp] theorem State.setDsCursor_underline (s : State) (b : BufSel) (r c : Nat) : (s.setDsCursor b r c).underline = s.underline := by simp [State.setDsCursor]
@[simp] theorem State.setDsCursor_last (s : State) (b : BufSel) (r c : Nat) : (s.setDsCursor b r c).last = s.last := by simp [State.setDsCursor]
@[simp] theorem State.setDsCursor_n (s : State) (b : BufSel) (r c : Nat) : (s.setDsCursor b r c).n = s.n := by simp [State.setDsCursor]
@[simp] theorem State.setDsCursor_params (s : State) (b : BufSel) (r c : Nat) : (s.setDsCursor b r c).params = s.params := by simp [State.setDsCursor]
@[simp] theorem State.setDsCursor_input (s : State) (b : BufSel) (r c : Nat) : (s.setDsCursor b r c).input = s.input := by simp [State.setDsCursor]
@[simp] theorem State.setDsCursor_out (s : State) (b : BufSel) (r c : Nat) : (s.setDsCursor b r c).out = s.out := by simp [State.setDsCursor]

@[simp] theorem State.setDsCursor_buf_ds (s : State) (b : BufSel) (r c : Nat) (b' : BufSel) :
    ((s.setDsCursor b r c).buf b').ds = if b' = b then { (s.buf b).ds with row := r, col := c } else (s.buf b').ds := by
  simp [State.setDsCursor]
@[simp] theorem State.setDsCursor_buf_cells (s : State) (b : BufSel) (r c : Nat) (b' : BufSel) :
    ((s.setDsCursor b r c).buf b').cells = (s.buf b').cells := by
  simp [State.setDsCursor]

/-! ### edit -/

@[simp] theorem State.edit_active (s : State) (b : BufSel) (f : Writer → Writer) : (s.edit b f).active = s.active := by simp [State.edit]
@[simp] theorem State.edit_row (s : State) (b : BufSel) (f : Writer → Writer) : (s.edit b f).row = s.row := by simp [State.edit]
@[simp] theorem State.edit_col (s : State) (b : BufSel) (f : Writer → Writer) : (s.edit b f).col = s.col := by simp [State.edit]
@[simp] theorem State.edit_style (s : State) (b : BufSel) (f : Writer → Writer) : (s.edit b f).style = s.style := by simp [State.edit]
@[simp] theorem State.edit_underline (s : State) (b : BufSel) (f : Writer → Writer) : (s.edit b f).underline = s.underline := by simp [State.edit]
@[simp] theorem State.edit_last (s : State) (b : BufSel) (f : Writer → Writer) : (s.edit b f).last = s.last := by simp [State.edit]
@[simp] theorem State.edit_n (s : State) (b : BufSel) (f : Writer → Writer) : (s.edit b f).n = s.n := by simp [State.edit]
@[simp] theorem State.edit_params (s : State) (b : BufSel) (f : Writer → Writer) : (s.edit b f).params = s.params := by simp [State.edit]
@[simp] theorem State.edit_input (s : State) (b : BufSel) (f : Writer → Writer) : (s.edit b f).input = s.input := by simp [State.edit]

@[simp] theorem State.edit_buf_ds (s : State) (b b' : BufSel) (f : Writer → Writer) :
    ((s.edit b f).buf b').ds = (s.buf b').ds := by cases b <;> cases b' <;> rfl
@[simp] theorem State.edit_buf_cells (s : State) (b b' : BufSel) (f : Writer → Writer) :
    ((s.edit b f).buf b').cells =
      if b' = b then (f ⟨(s.buf b).cells, s.out.changed⟩).cells else (s.buf b').cells := by
  cases b <;> cases b' <;> rfl
@[simp] theorem State.edit_changed (s : State) (b : BufSel) (f : Writer → Writer) :
    (s.edit b f).out.changed = (f ⟨(s.buf b).cells, s.out.changed⟩).chg := rfl
@[simp] theorem State.edit_ready (s : State) (b : BufSel) (f : Writer → Writer) :
    (s.edit b f).out.ready = s.out.ready := rfl
@[simp] theorem State.edit_err (s : State) (b : BufSel) (f : Writer → Writer) :
    (s.edit b f).out.err = s.out.err := rfl
@[simp] theorem State.edit_valid (s : State) (b : BufSel) (f : Writer → Writer) :
    (s.edit b f).out.valid = s.out.valid := rfl

/-! ### ret -/

@[simp] theorem State.ret_front (s : State) (q : Bool) : (s.ret q).front = s.front := rfl
@[simp] theorem State.ret_back (s : State) (q : Bool) : (s.ret q).back = s.back := rfl
@[simp] theorem State.ret_active (s : State) (q : Bool) : (s.ret q).active = s.active := rfl
@[simp] theorem State.ret_row (s : State) (q : Bool) : (s.ret q).row = s.row := rfl
@[simp] theorem State.ret_col (s : State) (q : Bool) : (s.ret q).col = s.col := rfl
@[simp] theorem State.ret_style (s : State) (q : Bool) : (s.ret q).style = s.style := rfl
@[simp] theorem State.ret_underline (s : State) (q : Bool) : (s.ret q).underline = s.underline := rfl
@[simp] theorem State.ret_last (s : State) (q : Bool) : (s.ret q).last = s.last := rfl
@[simp] theorem State.ret_n (s : State) (q : Bool) : (s.ret q).n = s.n := rfl
@[simp] theorem State.ret_params (s : State) (q : Bool) : (s.ret q).params = s.params := rfl
@[simp] theorem State.ret_input (s : State) (q : Bool) : (s.ret q).input = s.input := rfl

@[simp] theorem State.ret_buf (s : State) (q : Bool) (b : BufSel) : (s.ret q).buf b = s.buf b := by cases b <;> rfl
@[simp] theorem State.ret_ready (s : State) (q : Bool) : (s.ret q).out.ready = q := rfl
@[simp] theorem State.ret_err (s : State) (q : Bool) : (s.ret q).out.err = false := rfl
@[simp] theorem State.ret_changed (s : State) (q : Bool) : (s.ret q).out.changed = s.out.changed := rfl
@[simp] theorem State.ret_valid (s : State) (q : Bool) : (s.ret q).out.valid = s.out.valid := rfl
@[simp] theorem State.ret_cellRead (s : State) (q : Bool) : (s.ret q).cellRead = s.cellRead := rfl

/-! ### swap -/

@[simp] theorem State.swap_active (s : State) : s.swap.active = s.active := rfl
@[simp] theorem State.swap_row (s : State) : s.swap.row = s.row := rfl
@[simp] theorem State.swap_col (s : State) : s.swap.col = s.col := rfl
@[simp] theorem State.swap_style (s : State) : s.swap.style = s.style := rfl
@[simp] theorem State.swap_underline (s : State) : s.swap.underline = s.underline := rfl
@[simp] theorem State.swap_last (s : State) : s.swap.last = s.last := rfl
@[simp] theorem State.swap_n (s : State) : s.swap.n = s.n := rfl
@[simp] theorem State.swap_params (s : State) : s.swap.params = s.params := rfl
@[simp] theorem State.swap_input (s : State) : s.swap.input = s.input := rfl
@[simp] theorem State.swap_out (s : State) : s.swap.out = s.out := rfl

@[simp] theorem State.swap_front (s : State) : s.swap.front = s.back := rfl
@[simp] theorem State.swap_back (s : State) : s.swap.back = s.front := rfl

/-! ### clearBuffer -/

@[simp] theorem State.clearBuffer_active (s : State) (b : BufSel) : (s.clearBuffer b).active = s.active := by
  unfold State.clearBuffer; split <;> simp
@[simp] theorem State.clearBuffer_row (s : State) (b : BufSel) : (s.clearBuffer b).row = s.row := by
  unfold State.clearBuffer; split <;> simp
@[simp] theorem State.clearBuffer_col (s : State) (b : BufSel) : (s.clearBuffer b).col = s.col := by
  unfold State.clearBuffer; split <;> simp
@[simp] theorem State.clearBuffer_style (s : State) (b : BufSel) : (s.clearBuffer b).style = s.style := by
  unfold State.clearBuffer; split <;> simp
@[simp] theorem State.clearBuffer_underline (s : State) (b : BufSel) : (s.clearBuffer b).underline = s.underline := by
  unfold State.clearBuffer; split <;> simp
@[simp] theorem State.clearBuffer_last (s : State) (b : BufSel) : (s.clearBuffer b).last = s.last := by
  unfold State.clearBuffer; split <;> simp
@[simp] theorem State.clearBuffer_n (s : State) (b : BufSel) : (s.clearBuffer b).n = s.n := by
  unfold State.clearBuffer; split <;> simp
@[simp] theorem State.clearBuffer_params (s : State) (b : BufSel) : (s.clearBuffer b).params = s.params := by
  unfold State.clearBuffer; split <;> simp
@[simp] theorem State.clearBuffer_input (s : State) (b : BufSel) : (s.clearBuffer b).input = s.input := by
  unfold State.clearBuffer; split <;> simp

@[simp] theorem State.clearBuffer_buf_ds (s : State) (b b' : BufSel) :
    ((s.clearBuffer b).buf b').ds =
      if b' = b ∧ s.params.clearResetsDisplayState = true then DisplayState.zero else (s.buf b').ds := by
  unfold State.clearBuffer
  by_cases h : s.params.clearResetsDisplayState = true <;> simp [h]
@[simp] theorem State.clearBuffer_buf_cells (s : State) (b b' : BufSel) :
    ((s.clearBuffer b).buf b').cells =
      if b' = b then (Writer.clearAll ⟨(s.buf b).cells, s.out.changed⟩).cells else (s.buf b').cells := by
  unfold State.clearBuffer; split <;> simp
@[simp] theorem State.clearBuffer_changed (s : State) (b : BufSel) :
    (s.clearBuffer b).out.changed = (Writer.clearAll ⟨(s.buf b).cells, s.out.changed⟩).chg := by
  unfold State.clearBuffer; split <;> simp
@[simp] theorem State.clearBuffer_valid (s : State) (b : BufSel) : (s.clearBuffer b).out.valid = s.out.valid := by
  unfold State.clearBuffer; split <;> simp

/-! ### backspace -/

@[simp] theorem State.backspace_active (s : State) (b : BufSel) : (s.backspace b).active = s.active := by simp [State.backspace, State.cellWrite]
@[simp] theorem State.backspace_row (s : State) (b : BufSel) : (s.backspace b).row = s.row := by simp [State.backspace, State.cellWrite]
@[simp] theorem State.backspace_style (s : State) (b : BufSel) : (s.backspace b).style = s.style := by simp [State.backspace, State.cellWrite]
@[simp] theorem State.backspace_underline (s : State) (b : BufSel) : (s.backspace b).underline = s.underline := by simp [State.backspace, State.cellWrite]
@[simp] theorem State.backspace_last (s : State) (b : BufSel) : (s.backspace b).last = s.last := by simp [State.backspace, State.cellWrite]
@[simp] theorem State.backspace_n (s : State) (b : BufSel) : (s.backspace b).n = s.n := by simp [State.backspace, State.cellWrite]
@[simp] theorem State.backspace_params (s : State) (b : BufSel) : (s.backspace b).params = s.params := by simp [State.backspace, State.cellWrite]
@[simp] theorem State.backspace_input (s : State) (b : BufSel) : (s.backspace b).input = s.input := by simp [State.backspace, State.cellWrite]

@[simp] theorem State.backspace_col (s : State) (b : BufSel) : (s.backspace b).col = s.col - 1 := by
  simp [State.backspace, State.cellWrite]
@[simp] theorem State.backspace_buf_ds (s : State) (b b' : BufSel) :
    ((s.backspace b).buf b').ds = (s.buf b').ds := by
  simp only [State.backspace, State.cellWrite, State.edit_buf_ds]; cases b' <;> rfl
@[simp] theorem State.backspace_valid (s : State) (b : BufSel) : (s.backspace b).out.valid = s.out.valid := by
  simp [State.backspace, State.cellWrite]

/-! ### writeChar -/

@[simp] theorem State.writeChar_active (s : State) (b : BufSel) (i : Nat) : (s.writeChar b i).active = s.active := by
  simp [State.writeChar, State.cellWrite]
@[simp] theorem State.writeChar_row (s : State) (b : BufSel) (i : Nat) : (s.writeChar b i).row = s.row := by
  simp [State.writeChar, State.cellWrite]
@[simp] theorem State.writeChar_style (s : State) (b : BufSel) (i : Nat) : (s.writeChar b i).style = s.style := by
  simp [State.writeChar, State.cellWrite]
@[simp] theorem State.writeChar_underline (s : State) (b : BufSel) (i : Nat) : (s.writeChar b i).underline = s.underline := by
  simp [State.writeChar, State.cellWrite]
@[simp] theorem State.writeChar_last (s : State) (b : BufSel) (i : Nat) : (s.writeChar b i).last = s.last := by
  simp [State.writeChar, State.cellWrite]
@[simp] theorem State.writeChar_n (s : State) (b : BufSel) (i : Nat) : (s.writeChar b i).n = s.n := by
  simp [State.writeChar, State.cellWrite]
@[simp] theorem State.writeChar_params (s : State) (b : BufSel) (i : Nat) : (s.writeChar b i).params = s.params := by
  simp [State.writeChar, State.cellWrite]
@[simp] theorem State.writeChar_input (s : State) (b : BufSel) (i : Nat) : (s.writeChar b i).input = s.input := by
  simp [State.writeChar, State.cellWrite]

@[simp] theorem State.writeChar_col (s : State) (b : BufSel) (i : Nat) :
    (s.writeChar b i).col = min (s.col + 1) 31 := by simp [State.writeChar, State.cellWrite]
@[simp] theorem State.writeChar_buf_ds (s : State) (b b' : BufSel) (i : Nat) :
    ((s.writeChar b i).buf b').ds = (s.buf b').ds := by
  have : ((s.writeChar b i).buf b') =
      ((s.cellWrite b s.row s.col ⟨s.params.lookup i, s.style, s.underline⟩).buf b') := by cases b' <;> rfl
  rw [this, State.cellWrite, State.edit_buf_ds]
@[simp] theorem State.writeChar_valid (s : State) (b : BufSel) (i : Nat) : (s.writeChar b i).out.valid = s.out.valid := by
  simp [State.writeChar, State.cellWrite]

/-! ### establish -/

@[simp] theorem State.establish_row (s : State) (b : BufSel) (d : Nat) : (s.establish b d).row = s.row := by simp [State.establish]
@[simp] theorem State.establish_col (s : State) (b : BufSel) (d : Nat) : (s.establish b d).col = s.col := by simp [State.establish]
@[simp] theorem State.establish_style (s : State) (b : BufSel) (d : Nat) : (s.establish b d).style = s.style := by simp [State.establish]
@[simp] theorem State.establish_underline (s : State) (b : BufSel) (d : Nat) : (s.establish b d).underline = s.underline := by simp [State.establish]
@[simp] theorem State.establish_last (s : State) (b : BufSel) (d : Nat) : (s.establish b d).last = s.last := by simp [State.establish]
@[simp] theorem State.establish_n (s : State) (b : BufSel) (d : Nat) : (s.establish b d).n = s.n := by simp [State.establish]
@[simp] theorem State.establish_params (s : State) (b : BufSel) (d : Nat) : (s.establish b d).params = s.params := by simp [State.establish]
@[simp] theorem State.establish_input (s : State) (b : BufSel) (d : Nat) : (s.establish b d).input = s.input := by simp [State.establish]
@[simp] theorem State.establish_out (s : State) (b : BufSel) (d : Nat) : (s.establish b d).out = s.out := by simp [State.establish]

@[simp] theorem State.establish_active (s : State) (b : BufSel) (d : Nat) :
    (s.establish b d).active = some b := by simp [State.establish]
@[simp] theorem State.establish_buf_ds (s : State) (b b' : BufSel) (d : Nat) :
    ((s.establish b d).buf b').ds = if b' = b then { (s.buf b).ds with rollupDepth := d } else (s.buf b').ds := by
  simp only [State.establish, State.setDepth_buf_ds]; cases b <;> cases b' <;> rfl
@[simp] theorem State.establish_buf_cells (s : State) (b b' : BufSel) (d : Nat) :
    ((s.establish b d).buf b').cells = (s.buf b').cells := by
  simp only [State.establish, State.setDepth_buf_cells]; cases b' <;> rfl

/-! ### beginStep -/

@[simp] theorem State.beginStep_front (s : State) : s.beginStep.front = s.front := rfl
@[simp] theorem State.beginStep_back (s : State) : s.beginStep.back = s.back := rfl
@[simp] theorem State.beginStep_active (s : State) : s.beginStep.active = s.active := rfl
@[simp] theorem State.beginStep_row (s : State) : s.beginStep.row = s.row := rfl
@[simp] theorem State.beginStep_col (s : State) : s.beginStep.col = s.col := rfl
@[simp] theorem State.beginStep_style (s : State) : s.beginStep.style = s.style := rfl
@[simp] theorem State.beginStep_underline (s : State) : s.beginStep.underline = s.underline := rfl
@[simp] theorem State.beginStep_last (s : State) : s.beginStep.last = s.last := rfl
@[simp] theorem State.beginStep_params (s : State) : s.beginStep.params = s.params := rfl

@[simp] theorem State.beginStep_n (s : State) : s.beginStep.n = s.n + 1 := rfl
@[simp] theorem State.beginStep_input (s : State) : s.beginStep.input = s.input.tail := rfl
@[simp] theorem State.beginStep_out (s : State) : s.beginStep.out = ⟨true, false, false, false⟩ := rfl

/-! ### record -/

@[simp] theorem State.record_front (s : State) (st : CapUnit) : (s.record st).front = s.front := by
  unfold State.record; split <;> rfl
@[simp] theorem State.record_back (s : State) (st : CapUnit) : (s.record st).back = s.back := by
  unfold State.record; split <;> rfl
@[simp] theorem State.record_active (s : State) (st : CapUnit) : (s.record st).active = s.active := by
  unfold State.record; split <;> rfl
@[simp] theorem State.record_row (s : State) (st : CapUnit) : (s.record st).row = s.row := by
  unfold State.record; split <;> rfl
@[simp] theorem State.record_col (s : State) (st : CapUnit) : (s.record st).col = s.col := by
  unfold State.record; split <;> rfl
@[simp] theorem State.record_style (s : State) (st : CapUnit) : (s.record st).style = s.style := by
  unfold State.record; split <;> rfl
@[simp] theorem State.record_underline (s : State) (st : CapUnit) : (s.record st).underline = s.underline := by
  unfold State.record; split <;> rfl
@[simp] theorem State.record_n (s : State) (st : CapUnit) : (s.record st).n = s.n := by
  unfold State.record; split <;> rfl
@[simp] theorem State.record_params (s : State) (st : CapUnit) : (s.record st).params = s.params := by
  unfold State.record; split <;> rfl
@[simp] theorem State.record_out (s : State) (st : CapUnit) : (s.record st).out = s.out := by
  unfold State.record; split <;> rfl
@[simp] theorem State.record_input (s : State) (st : CapUnit) : (s.record st).input = s.input := by
  unfold State.record; split <;> rfl

@[simp] theorem State.record_last (s : State) (st : CapUnit) :
    (s.record st).last = if st = 0#16 then s.last else st := by unfold State.record; split <;> rfl

/-! ### takeReset -/

@[simp] theorem State.takeReset_params (s : State) : s.takeReset.params = s.params := rfl
@[simp] theorem State.takeReset_input (s : State) : s.takeReset.input = s.input.tail := rfl

/-! ### withNextUnit -/

@[simp] theorem State.withNextUnit_input (s : State) (u : CapUnit) :
    (s.withNextUnit u).input = .unit u :: s.input.tail := rfl

end Sys2Proof.Machine
end

