-- ==== Sys2Proof/Laws/Ops.lean ====
section
/-! SUPPORT. One lemma per shared operation that says what it leaves, and the cases of a step. Callers cite these
instead of unfolding the operations. -/

namespace Sys2Proof.Machine

/-! ## Cells after each operation -/

/-- `cellRead` sees the buffer's cells only. -/
theorem State.cellRead_of_cells (s t : State) (b : BufSel) (r c : Nat) (h : (t.buf b).cells = (s.buf b).cells) :
    t.cellRead b r c = s.cellRead b r c := by
  unfold State.cellRead; rw [h]

theorem State.cellRead_some (s : State) (b : BufSel) (r c : Nat) (h : inRange r c) :
    s.cellRead b r c = some (Memory.get (s.buf b).cells (cellAddr r c)) := if_pos h

/-- Out of range the read is ABSENT (R52, R53). -/
theorem State.cellRead_none (s : State) (b : BufSel) (r c : Nat) (h : ¬ inRange r c) : s.cellRead b r c = none :=
  if_neg h

theorem State.edit_cellRead (s : State) (b : BufSel) (f : Writer → Writer) (b' : BufSel) (r c : Nat) :
    (s.edit b f).cellRead b' r c =
      if b' = b ∧ inRange r c then some ((f ⟨(s.buf b).cells, s.out.changed⟩).at r c) else s.cellRead b' r c := by
  unfold State.cellRead Writer.at
  by_cases h : inRange r c
  · by_cases hb : b' = b
    · rw [if_pos h, if_pos ⟨hb, h⟩, State.edit_buf_cells, if_pos hb]
    · rw [if_pos h, if_pos h, if_neg fun x => hb x.1, State.edit_buf_cells, if_neg hb]
  · rw [if_neg h, if_neg h, if_neg fun x => h x.2]

/-- `CellWrite` then `CellRead` (R53, R54). -/
theorem State.cellWrite_cellRead (s : State) (b : BufSel) (r c : Nat) (v : Cell) (b' : BufSel) (r' c' : Nat) :
    (s.cellWrite b r c v).cellRead b' r' c' =
      if b' = b ∧ r' = r ∧ c' = c ∧ inRange r c then some v else s.cellRead b' r' c' := by
  rw [State.cellWrite, State.edit_cellRead]
  by_cases h : b' = b ∧ inRange r' c'
  · obtain ⟨rfl, h⟩ := h
    rw [if_pos ⟨rfl, h⟩, Writer.write_at _ _ _ _ _ _ h.2]
    by_cases h2 : r' = r ∧ c' = c ∧ inRange r c
    · rw [if_pos h2, if_pos ⟨rfl, h2⟩]
    · rw [if_neg h2, if_neg fun x => h2 x.2, State.cellRead_some _ _ _ _ h]
      rfl
  · rw [if_neg h, if_neg]
    rintro ⟨rfl, rfl, rfl, h2⟩
    exact h ⟨rfl, h2⟩

/-- What `CellWrite` adds to `changed` (R54, R130). -/
theorem State.cellWrite_changed (s : State) (b : BufSel) (r c : Nat) (v : Cell) :
    (s.cellWrite b r c v).out.changed = true ↔
      s.out.changed = true ∨ (inRange r c ∧ s.cellRead b r c ≠ some v) := by
  rw [State.cellWrite, State.edit_changed, Writer.write_chg]
  refine or_congr_right (and_congr_right fun h => ?_)
  rw [State.cellRead_some _ _ _ _ h, ne_eq, ne_eq, Option.some_inj]
  rfl

/-- `ClearCells` (R55). -/
theorem State.clearCells_cellRead (s : State) (b : BufSel) (r c0 c1 : Nat) (b' : BufSel) (r' c' : Nat) :
    (s.clearCells b r c0 c1).cellRead b' r' c' =
      if b' = b ∧ r' = r ∧ c0 ≤ c' ∧ c' < c1 ∧ inRange r' c' then some Cell.empty else s.cellRead b' r' c' := by
  rw [State.clearCells, State.edit_cellRead]
  by_cases h : b' = b ∧ inRange r' c'
  · obtain ⟨rfl, h⟩ := h
    rw [if_pos ⟨rfl, h⟩, Writer.clearCells_at _ _ _ _ _ _ h]
    by_cases h2 : r' = r ∧ c0 ≤ c' ∧ c' < c1
    · rw [if_pos h2, if_pos ⟨rfl, h2.1, h2.2.1, h2.2.2, h⟩]
    · rw [if_neg h2, if_neg fun x => h2 ⟨x.2.1, x.2.2.1, x.2.2.2.1⟩, State.cellRead_some _ _ _ _ h]
      rfl
  · rw [if_neg h, if_neg fun x => h ⟨x.1, x.2.2.2.2⟩]

/-- An edit whose writer tracks changes sets `changed` exactly when some cell of the buffer differs. -/
theorem State.edit_changed_iff (s : State) (b : BufSel) (f : Writer → Writer) (hf : ∀ w : Writer, w.Tracks (f w)) :
    (s.edit b f).out.changed = true ↔
      s.out.changed = true ∨ ∃ r c, inRange r c ∧ (s.edit b f).cellRead b r c ≠ s.cellRead b r c := by
  have ht := hf ⟨(s.buf b).cells, s.out.changed⟩
  unfold Writer.Tracks at ht
  rw [State.edit_changed, ht]
  refine or_congr_right (exists_congr fun r => exists_congr fun c => and_congr_right fun h => ?_)
  rw [State.edit_cellRead, if_pos ⟨rfl, h⟩, State.cellRead_some _ _ _ _ h, ne_eq, ne_eq, Option.some_inj]
  rfl

theorem State.clearCells_changed (s : State) (b : BufSel) (r c0 c1 : Nat) :
    (s.clearCells b r c0 c1).out.changed = true ↔
      s.out.changed = true ∨
        ∃ r' c', inRange r' c' ∧ (s.clearCells b r c0 c1).cellRead b r' c' ≠ s.cellRead b r' c' :=
  s.edit_changed_iff b _ fun w => w.tracks_clearCells r c0 c1

/-- `ClearBuffer` (R56): the buffer's cells EMPTY, the other buffer's unchanged. -/
theorem State.clearBuffer_cellRead (s : State) (b b' : BufSel) (r c : Nat) :
    (s.clearBuffer b).cellRead b' r c =
      if b' = b ∧ inRange r c then some Cell.empty else s.cellRead b' r c := by
  have h1 : (s.clearBuffer b).cellRead b' r c = (s.edit b Writer.clearAll).cellRead b' r c :=
    State.cellRead_of_cells _ _ _ _ _ (by simp)
  rw [h1, State.edit_cellRead]
  by_cases h : b' = b ∧ inRange r c
  · rw [if_pos h, if_pos h, Writer.clearAll_at _ _ _ h.2]
  · rw [if_neg h, if_neg h]

/-- `ClearBuffer` sets `changed` exactly when some cell of the buffer was not EMPTY (R54, R130). -/
theorem State.clearBuffer_changed_iff (s : State) (b : BufSel) :
    (s.clearBuffer b).out.changed = true ↔
      s.out.changed = true ∨ ∃ r c, inRange r c ∧ s.cellRead b r c ≠ some Cell.empty := by
  have ht := Writer.tracks_clearAll ⟨(s.buf b).cells, s.out.changed⟩
  unfold Writer.Tracks at ht
  rw [State.clearBuffer_changed, ht]
  refine or_congr_right (exists_congr fun r => exists_congr fun c => and_congr_right fun h => ?_)
  rw [Writer.clearAll_at _ _ _ h, State.cellRead_some _ _ _ _ h, ne_eq, ne_eq, Option.some_inj]
  exact not_congr eq_comm

/-- `Swap` (R58). -/
theorem State.swap_cellRead (s : State) (b : BufSel) (r c : Nat) :
    s.swap.cellRead b r c = s.cellRead (match b with | .front => .back | .back => .front) r c := by
  cases b <;> rfl

/-- `RollupShift` (R59, R60). -/
theorem State.rollupShift_cellRead (s : State) (b : BufSel) (row depth : Nat) (b' : BufSel) (r c : Nat) :
    (s.rollupShift b row depth).cellRead b' r c =
      if b' = b ∧ inRange r c ∧ row + depth ≤ 15 ∧ 0 < row + depth then
        if r = row then some Cell.empty
        else if row < r ∧ r < row + depth then s.cellRead b (r - 1) c
        else s.cellRead b' r c
      else s.cellRead b' r c := by
  rw [State.rollupShift, State.edit_cellRead]
  by_cases h : b' = b ∧ inRange r c
  · obtain ⟨rfl, h⟩ := h
    rw [if_pos ⟨rfl, h⟩, Writer.rollupShift_at _ _ _ _ _ h]
    have h' : inRange (r - 1) c := ⟨by have := h.1; omega, h.2⟩
    by_cases hg : row + depth > 15 ∨ row + depth = 0
    · rw [if_pos hg, if_neg (by omega), State.cellRead_some _ _ _ _ h]
      rfl
    · have hp : b' = b' ∧ inRange r c ∧ row + depth ≤ 15 ∧ 0 < row + depth := ⟨rfl, h, by omega, by omega⟩
      rw [if_neg hg, if_pos hp]
      by_cases h1 : r = row
      · rw [if_pos h1, if_pos h1]
      · rw [if_neg h1, if_neg h1]
        by_cases h2 : row < r ∧ r < row + depth
        · rw [if_pos h2, if_pos h2, State.cellRead_some _ _ _ _ h']
          rfl
        · rw [if_neg h2, if_neg h2, State.cellRead_some _ _ _ _ h]
          rfl
  · rw [if_neg h, if_neg fun x => h ⟨x.1, x.2.1⟩]

theorem State.rollupShift_changed (s : State) (b : BufSel) (row depth : Nat) :
    (s.rollupShift b row depth).out.changed = true ↔
      s.out.changed = true ∨
        ∃ r c, inRange r c ∧ (s.rollupShift b row depth).cellRead b r c ≠ s.cellRead b r c :=
  s.edit_changed_iff b _ fun w => w.tracks_rollupShift row depth

/-- Writing a DisplayState touches no cell. -/
theorem State.setDs_cellRead (s : State) (b : BufSel) (ds : DisplayState) (b' : BufSel) (r c : Nat) :
    (s.setDs b ds).cellRead b' r c = s.cellRead b' r c :=
  State.cellRead_of_cells _ _ _ _ _ (by simp)

/-- Selecting a buffer and writing its depth touches no cell. -/
theorem State.establish_cellRead (s : State) (b : BufSel) (d : Nat) (b' : BufSel) (r c : Nat) :
    (s.establish b d).cellRead b' r c = s.cellRead b' r c :=
  State.cellRead_of_cells _ _ _ _ _ (by simp)

/-- The backspace (R142, R203). -/
theorem State.backspace_cellRead (s : State) (b : BufSel) (b' : BufSel) (r c : Nat) :
    (s.backspace b).cellRead b' r c =
      if b' = b ∧ r = s.row ∧ c = s.col - 1 ∧ inRange s.row (s.col - 1) then some Cell.empty
      else s.cellRead b' r c := by
  rw [State.backspace, State.cellWrite_cellRead]
  refine if_congr Iff.rfl rfl ?_
  exact State.cellRead_of_cells _ _ _ _ _ (by cases b' <;> rfl)

theorem State.backspace_changed (s : State) (b : BufSel) :
    (s.backspace b).out.changed = true ↔
      s.out.changed = true ∨ (inRange s.row (s.col - 1) ∧ s.cellRead b s.row (s.col - 1) ≠ some Cell.empty) := by
  rw [State.backspace, State.cellWrite_changed]
  refine or_congr_right (and_congr_right fun _ => not_congr ?_)
  rw [State.cellRead_of_cells s _ b _ _ (by cases b <;> rfl)]

/-- `WriteChar` (R201). -/
theorem State.writeChar_cellRead (s : State) (b : BufSel) (idx : Nat) (b' : BufSel) (r c : Nat) :
    (s.writeChar b idx).cellRead b' r c =
      if b' = b ∧ r = s.row ∧ c = s.col ∧ inRange s.row s.col then
        some ⟨s.params.lookup idx, s.style, s.underline⟩
      else s.cellRead b' r c := by
  rw [← State.cellWrite_cellRead s b s.row s.col]
  exact State.cellRead_of_cells _ _ _ _ _ (by cases b' <;> rfl)

theorem State.writeChar_changed (s : State) (b : BufSel) (idx : Nat) :
    (s.writeChar b idx).out.changed = true ↔
      s.out.changed = true ∨
        (inRange s.row s.col ∧ s.cellRead b s.row s.col ≠ some ⟨s.params.lookup idx, s.style, s.underline⟩) := by
  rw [← State.cellWrite_changed s b s.row s.col]
  exact Iff.rfl

/-! ## Shared control -/

theorem requireActive_some (s : State) (k : BufSel → State) (b : BufSel) (h : s.active = some b) :
    requireActive s k = .next (k b) := by unfold requireActive; rw [h]

theorem requireActive_ignore (s : State) (k : BufSel → State) (h : s.active = none)
    (hp : s.params.preModePolicy = .ignore) : requireActive s k = .next (s.ret false) := by
  unfold requireActive; rw [h, hp]

theorem requireActive_fault (s : State) (k : BufSel → State) (h : s.active = none)
    (hp : s.params.preModePolicy = .fault) : requireActive s k = .fault .preModeBufferCommand := by
  unfold requireActive; rw [h, hp]

/-- Every next state `RequireActive` can give (R163). -/
theorem requireActive_next {s t : State} {k : BufSel → State} (h : requireActive s k = .next t) :
    (∃ b, s.active = some b ∧ t = k b) ∨
      (s.active = none ∧ s.params.preModePolicy = .ignore ∧ t = s.ret false) := by
  unfold requireActive at h
  split at h
  · next b hb => cases h; exact Or.inl ⟨b, hb, rfl⟩
  · next hb =>
    split at h
    · next hp => cases h; exact Or.inr ⟨hb, hp, rfl⟩
    · cases h

theorem whenActive_some (s : State) (k : BufSel → Host.Outcome State Fault Refusal) (b : BufSel)
    (h : s.active = some b) : whenActive s k = k b := by unfold whenActive; rw [h]

theorem whenActive_none (s : State) (k : BufSel → Host.Outcome State Fault Refusal) (h : s.active = none) :
    whenActive s k = .next (s.ret false) := by unfold whenActive; rw [h]

/-- Every next state step 6 can give (R126). -/
theorem whenActive_next {s t : State} {k : BufSel → Host.Outcome State Fault Refusal}
    (h : whenActive s k = .next t) :
    (∃ b, s.active = some b ∧ k b = .next t) ∨ (s.active = none ∧ t = s.ret false) := by
  unfold whenActive at h
  split at h
  · next b hb => exact Or.inl ⟨b, hb, h⟩
  · next hb => cases h; exact Or.inr ⟨hb, rfl⟩

theorem pacInvalidRow_next {s t : State} (h : pacInvalidRow s = .next t) :
    s.params.pacInvalidRowPolicy = .ignore ∧ t = s.ret false := by
  unfold pacInvalidRow at h
  split at h
  · next hp => cases h; exact ⟨hp, rfl⟩
  · cases h

/-! ## The step -/

theorem State.isDuplicate_iff (s : State) (u : CapUnit) : s.isDuplicate (strip u) = true ↔ Duplicate s u := by
  simp [State.isDuplicate, Duplicate]

theorem State.record_beginStep (s : State) (u : CapUnit) :
    s.beginStep.record (strip u) = Noted s u s.input.tail := by
  unfold State.record Noted; split <;> rfl

/-- Every next state of a step: a reset; a parity or duplicate drop; or the decoded instruction's. -/
theorem step_cases {s t : State} (h : step s = .next t) :
    (∃ rest, s.input = .rst :: rest ∧ t = s.takeReset) ∨
    (∃ u rest, s.input = .unit u :: rest ∧ (parityOk u = false ∨ Duplicate s u) ∧ t = Dropped s rest) ∨
    (∃ u rest, s.input = .unit u :: rest ∧ parityOk u = true ∧ ¬ Duplicate s u ∧
      exec (decodeStripped (strip u)) (Noted s u rest) = .next t) := by
  unfold step at h
  split at h
  · cases h
  · next rest hi => cases h; exact Or.inl ⟨rest, hi, rfl⟩
  · next u rest hi =>
    have hd : s.beginStep.isDuplicate (strip u) = true ↔ Duplicate s u := State.isDuplicate_iff s u
    unfold firstChecks decode at h
    by_cases hp : parityOk u = true
    · by_cases hdup : Duplicate s u
      · simp only [hp, if_true, hd.mpr hdup] at h
        cases h
        exact Or.inr (Or.inl ⟨u, rest, hi, Or.inr hdup, by simp [Dropped, State.beginStep, hi]⟩)
      · have : s.beginStep.isDuplicate (strip u) = false := by
          simpa using fun x => hdup (hd.mp x)
        simp only [hp, if_true, this, Bool.false_eq_true, if_false, State.record_beginStep] at h
        exact Or.inr (Or.inr ⟨u, rest, hi, hp, hdup, by simpa [hi] using h⟩)
    · have hpf : parityOk u = false := by simpa using hp
      simp only [hpf, Bool.false_eq_true, if_false] at h
      cases h
      exact Or.inr (Or.inl ⟨u, rest, hi, Or.inl hpf, by simp [Dropped, State.beginStep, hi]⟩)

end Sys2Proof.Machine
end

