-- ==== Sys2Proof/Laws/PerInstr.lean ====
section
/-! SUPPORT. Statements made of every instruction, one lemma per constructor (LAWS.json, per_instruction). -/

/-- The raw unit of an instruction passes parity, and stripping it gives the instruction's stripped unit with bits 15
and 7 clear (30_encoding.md R83, R104). -/
def Sys2Proof.Laws.Parity.Statement (i : Sys2Proof.Instr) : Prop :=
  Sys2Proof.parityOk (Sys2Proof.encode i) = true ∧
    Sys2Proof.strip (Sys2Proof.encode i) = Sys2Proof.strip i.stripped

namespace Sys2Proof.Laws.Parity

theorem of_any (i : Instr) : Statement i := ⟨parityOk_addParity _, strip_addParity _⟩

theorem rcl (chan fld : Bool) : Statement (.rcl chan fld) := of_any _
theorem bs (chan fld : Bool) : Statement (.bs chan fld) := of_any _
theorem aof (chan fld : Bool) : Statement (.aof chan fld) := of_any _
theorem aon (chan fld : Bool) : Statement (.aon chan fld) := of_any _
theorem der (chan fld : Bool) : Statement (.der chan fld) := of_any _
theorem ru2 (chan fld : Bool) : Statement (.ru2 chan fld) := of_any _
theorem ru3 (chan fld : Bool) : Statement (.ru3 chan fld) := of_any _
theorem ru4 (chan fld : Bool) : Statement (.ru4 chan fld) := of_any _
theorem fon (chan fld : Bool) : Statement (.fon chan fld) := of_any _
theorem rdc (chan fld : Bool) : Statement (.rdc chan fld) := of_any _
theorem tr (chan fld : Bool) : Statement (.tr chan fld) := of_any _
theorem rtd (chan fld : Bool) : Statement (.rtd chan fld) := of_any _
theorem edm (chan fld : Bool) : Statement (.edm chan fld) := of_any _
theorem cr (chan fld : Bool) : Statement (.cr chan fld) := of_any _
theorem enm (chan fld : Bool) : Statement (.enm chan fld) := of_any _
theorem eoc (chan fld : Bool) : Statement (.eoc chan fld) := of_any _
theorem ctl17_20 (chan : Bool) : Statement (.ctl17_20 chan) := of_any _
theorem to1 (chan : Bool) : Statement (.to1 chan) := of_any _
theorem to2 (chan : Bool) : Statement (.to2 chan) := of_any _
theorem to3 (chan : Bool) : Statement (.to3 chan) := of_any _
theorem ctl17_24_27 (chan : Bool) (k : BitVec 2) : Statement (.ctl17_24_27 chan k) := of_any _
theorem ctl17_28_2F (chan : Bool) (k : BitVec 3) : Statement (.ctl17_28_2F chan k) := of_any _
theorem pac (chan : Bool) (rs : BitVec 4) (ind : Bool) (a : BitVec 3) (ul : Bool) : Statement (.pac chan rs ind a ul) := of_any _
theorem mid (chan : Bool) (a : BitVec 3) (ul : Bool) : Statement (.mid chan a ul) := of_any _
theorem spc (chan : Bool) (k : BitVec 4) : Statement (.spc chan k) := of_any _
theorem we1 (chan : Bool) (k : BitVec 5) : Statement (.we1 chan k) := of_any _
theorem we2 (chan : Bool) (k : BitVec 5) : Statement (.we2 chan k) := of_any _
theorem txtA (c1 c2 : BitVec 7) : Statement (.txtA c1 c2) := of_any _
theorem txtB (c1 c2 : BitVec 7) : Statement (.txtB c1 c2) := of_any _
theorem pad : Statement .pad := of_any _
theorem uncl (s : CapUnit) : Statement (.uncl s) := of_any _

end Sys2Proof.Laws.Parity
end

