-- ==== Sys2Proof/Machine/Asm.lean ====
section
/-! DEFINITION. The spec's own assembler (30_encoding.md R103 to R105, D20), over its lines as data: what raw units a
line emits. -/

namespace Sys2Proof.Machine

/-- A line of R103, with the pseudo-instructions of R105. Every mnemonic line is an instruction. -/
inductive AsmLine
  /-- A mnemonic line (R103). -/
  | instr (i : Instr)
  /-- `.strip 0xHHHH`: a stripped unit, parity added; bits 15 and 7 of the number are not read (log entry 13). -/
  | strip (s : CapUnit)
  /-- `.word 0xHHHH`: a raw unit emitted exactly as written. -/
  | word (u : CapUnit)
  /-- `TEXT "str"`: characters two at a time (R105). -/
  | text (str : List (BitVec 7))
  /-- `DBL <line>`: the line twice (R105). -/
  | dbl (line : AsmLine)
  /-- `BADP <line>`: the line's raw unit with bit 15 inverted (R105; over a line of several units, log entry 15). -/
  | badp (line : AsmLine)
  deriving DecidableEq, Repr

/-- The `TXT c1, c2` instruction, in the row of the opcode map its `s[13]` chooses (R101). -/
def txtInstr (c1 c2 : BitVec 7) : Instr := if c1.getLsbD 5 then .txtA c1 c2 else .txtB c1 c2

/-- The stripped units of `TEXT` (R105): an odd last character goes with a low byte 0. -/
def textUnits : List (BitVec 7) → List CapUnit
  | c1 :: c2 :: rest => (txtInstr c1 c2).stripped :: textUnits rest
  | [c] => [(txtInstr c 0#7).stripped]
  | [] => []

/-- The raw units of a line (R104, R105). R105 speaks of the one raw unit of a line under BADP; over a line of several
units (TEXT, DBL) bit 15 of every one is inverted, DESIGN CHOICE (log entry 15). -/
def assemble : AsmLine → List CapUnit
  | .instr i => [encode i]
  | .strip s => [addParity s]
  | .word u => [u]
  | .text str => (textUnits str).map addParity
  | .dbl line => assemble line ++ assemble line
  | .badp line => (assemble line).map fun u => u ^^^ 0x8000#16

end Sys2Proof.Machine
end

