-- ==== Sys2Proof/Machine/AsmText.lean ====
section
/-! DEFINITION. The written form of the spec's own assembler (30_encoding.md R103 to R105, D20): characters to tokens,
tokens to a line, lines to raw units. A line that is none of R103's and R105's is refused; the points of the notation
that they leave open are log entries 13 and 16. -/

namespace Sys2Proof.Machine

/-! ## Tokens -/

/-- A token of a line. -/
inductive AsmTok
  | word (w : List Char)
  | chr (c : Char)
  | str (s : List Char)
  | comma
  deriving DecidableEq, Repr

/-- Where the lexer stands: between tokens, in a word, after an opening quote, after its character, in a string, in a
comment, or past an error. Accumulated characters are held last first. -/
inductive LexMode
  | gap
  | word (acc : List Char)
  | chrOpen
  | chrBody (c : Char)
  | str (acc : List Char)
  | comment
  | bad
  deriving DecidableEq, Repr

/-- The lexer's state; `toks` is held last first. -/
structure Lexer where
  mode : LexMode
  toks : List AsmTok
  deriving DecidableEq, Repr

/-- A character between two tokens; `;` starts a comment (R103). -/
def lexGap (toks : List AsmTok) (c : Char) : Lexer :=
  if c = ' ' ∨ c = '\t' then ⟨.gap, toks⟩
  else if c = ',' then ⟨.gap, .comma :: toks⟩
  else if c = ';' then ⟨.comment, toks⟩
  else if c = '\'' then ⟨.chrOpen, toks⟩
  else if c = '"' then ⟨.str [], toks⟩
  else ⟨.word [c], toks⟩

/-- One character. R105 does not say how a double quote is written inside `TEXT "str"`: here a string ends at the first
double quote after its opening one, with no escape, DESIGN CHOICE (log entry 16, with the other points of quotes).
Between the quotes of `'X'` every printable character stands for itself (R103), a quote or a semicolon too. -/
def Lexer.next (l : Lexer) (c : Char) : Lexer :=
  match l.mode with
  | .gap => lexGap l.toks c
  | .word acc =>
    if c = ' ' ∨ c = '\t' ∨ c = ',' ∨ c = ';' then lexGap (.word acc.reverse :: l.toks) c
    else ⟨.word (c :: acc), l.toks⟩
  | .chrOpen => ⟨.chrBody c, l.toks⟩
  | .chrBody x => if c = '\'' then ⟨.gap, .chr x :: l.toks⟩ else ⟨.bad, l.toks⟩
  | .str acc => if c = '"' then ⟨.gap, .str acc.reverse :: l.toks⟩ else ⟨.str (c :: acc), l.toks⟩
  | .comment => l
  | .bad => l

/-- The tokens of a line, `none` where a quote is not closed (log entry 16). -/
def lexLine (cs : List Char) : Option (List AsmTok) :=
  let l := cs.foldl Lexer.next ⟨.gap, []⟩
  match l.mode with
  | .gap | .comment => some l.toks.reverse
  | .word acc => some (l.toks.reverse ++ [.word acc.reverse])
  | _ => none

/-! ## Numbers and suffixes -/

/-- The digits in the order of their values. -/
def digitChars : List Char := "0123456789ABCDEF".toList

/-- The value of a digit in a base of at most 16; a letter digit may be a small letter (log entry 13). -/
def digitValue (base : Nat) (c : Char) : Option Nat := (digitChars.take base).idxOf? c.toUpper

/-- Digits in a base, most significant first, `none` where one is not a digit of that base. -/
def digitsValue (base : Nat) (ds : List Char) : Option Nat :=
  ds.foldl (fun acc c => acc.bind fun n => (digitValue base c).map fun d => base * n + d) (some 0)

/-- `k`, `rs`, `a`, `col` or `ul`: decimal digits or `0x` and hexadecimal digits, any number of either. The spec's own
programs write both (`CTL17 15`, `WE1 0x10`); that each operand may be written in both is log entry 13. -/
def numValue : List Char → Option Nat
  | '0' :: 'x' :: d :: ds => digitsValue 16 (d :: ds)
  | d :: ds => digitsValue 10 (d :: ds)
  | [] => none

/-- `0xNN` and `0xHHHH` of R103: `0x` and exactly `n` hexadecimal digits, never decimal. -/
def hexExact (n : Nat) : List Char → Option Nat
  | '0' :: 'x' :: ds => if ds.length = n then digitsValue 16 ds else none
  | _ => none

/-- A number below a bound. -/
def numBelow (bound : Nat) (cs : List Char) : Option Nat :=
  match numValue cs with
  | some n => if n < bound then some n else none
  | none => none

/-- A word cut at its dots. -/
def splitDots : List Char → List (List Char)
  | [] => [[]]
  | c :: cs =>
    if c = '.' then [] :: splitDots cs
    else
      match splitDots cs with
      | w :: ws => (c :: w) :: ws
      | [] => [[c]]

/-- `[.F2][.C2]` (R103), as (`fld`, `chan`). -/
def suffixes (ws : List (List Char)) : Option (Bool × Bool) :=
  if ws = [] then some (false, false)
  else if ws = ["F2".toList] then some (true, false)
  else if ws = ["C2".toList] then some (false, true)
  else if ws = ["F2".toList, "C2".toList] then some (true, true)
  else none

/-- `[.C2]` (R103). -/
def chanSuffix (ws : List (List Char)) : Option Bool :=
  if ws = [] then some false else if ws = ["C2".toList] then some true else none

/-- A word with an optional `.C2`, as the word and `chan`. -/
def wordChan (w : List Char) : Option (List Char × Bool) :=
  match splitDots w with
  | base :: ws =>
    match chanSuffix ws with
    | some chan => some (base, chan)
    | none => none
  | [] => none

/-- A number below a bound with an optional `.C2`. -/
def numChan (bound : Nat) (w : List Char) : Option (Nat × Bool) :=
  match wordChan w with
  | some (base, chan) =>
    match numBelow bound base with
    | some n => some (n, chan)
    | none => none
  | none => none

/-- `U<ul>[.C2]`. -/
def underlineChan : List Char → Option (Bool × Bool)
  | 'U' :: w =>
    match numChan 2 w with
    | some (n, chan) => some (n == 1, chan)
    | none => none
  | _ => none

/-! ## Lines -/

/-- The 0x14-group mnemonics (R103). -/
def ctl14Names : List (List Char × (Bool → Bool → Instr)) :=
  [("RCL".toList, .rcl), ("BS".toList, .bs), ("AOF".toList, .aof), ("AON".toList, .aon), ("DER".toList, .der),
   ("RU2".toList, .ru2), ("RU3".toList, .ru3), ("RU4".toList, .ru4), ("FON".toList, .fon), ("RDC".toList, .rdc),
   ("TR".toList, .tr), ("RTD".toList, .rtd), ("EDM".toList, .edm), ("CR".toList, .cr), ("ENM".toList, .enm),
   ("EOC".toList, .eoc)]

/-- The tab mnemonics (R103). -/
def tabNames : List (List Char × (Bool → Instr)) :=
  [("TO1".toList, .to1), ("TO2".toList, .to2), ("TO3".toList, .to3)]

/-- `CTL17 k`, `k` 0 or 4..15. -/
def ctl17Of (k : Nat) (chan : Bool) : Option Instr :=
  if k = 0 then some (.ctl17_20 chan)
  else if 4 ≤ k ∧ k < 8 then some (.ctl17_24_27 chan (BitVec.ofNat 2 (k - 4)))
  else if 8 ≤ k ∧ k < 16 then some (.ctl17_28_2F chan (BitVec.ofNat 3 (k - 8)))
  else none

/-- A line without operands: the 0x14 group, the tabs and `PAD`. -/
def parseBare (w : List Char) : Option Instr :=
  match splitDots w with
  | [] => none
  | base :: ws =>
    if base = "PAD".toList ∧ ws = [] then some .pad
    else
      match ctl14Names.lookup base with
      | some f =>
        match suffixes ws with
        | some (fld, chan) => some (f chan fld)
        | none => none
      | none =>
        match tabNames.lookup base, chanSuffix ws with
        | some f, some chan => some (f chan)
        | _, _ => none

/-- A line with one number: `CTL17`, `SPC`, `WE1`, `WE2`. -/
def parseIndexed (m a : List Char) : Option Instr :=
  match numChan 32 a with
  | none => none
  | some (k, chan) =>
    if m = "CTL17".toList then ctl17Of k chan
    else if m = "SPC".toList then (if k < 16 then some (.spc chan (BitVec.ofNat 4 k)) else none)
    else if m = "WE1".toList then some (.we1 chan (BitVec.ofNat 5 k))
    else if m = "WE2".toList then some (.we2 chan (BitVec.ofNat 5 k))
    else none

/-- `MID <a>, U<ul>[.C2]`. -/
def parseMid (a u : List Char) : Option Instr :=
  match numBelow 8 a, underlineChan u with
  | some n, some (ul, chan) => some (.mid chan (BitVec.ofNat 3 n) ul)
  | _, _ => none

/-- `PAC rs, S<a>, U<ul>[.C2]` and `PAC rs, I<col>, U<ul>[.C2]`, with `a = col / 4`. -/
def parsePac (r f u : List Char) : Option Instr :=
  match numBelow 16 r, underlineChan u, f with
  | some rs, some (ul, chan), 'S' :: a =>
    match numBelow 8 a with
    | some n => some (.pac chan (BitVec.ofNat 4 rs) false (BitVec.ofNat 3 n) ul)
    | none => none
  | some rs, some (ul, chan), 'I' :: col =>
    match numBelow 29 col with
    | some n => if n % 4 = 0 then some (.pac chan (BitVec.ofNat 4 rs) true (BitVec.ofNat 3 (n / 4)) ul) else none
    | none => none
  | _, _, _ => none

/-- A character operand of `TXT`: `'X'` printable ASCII, or `0xNN` of 7 bits. -/
def textOperand : AsmTok → Option (BitVec 7)
  | .chr c => if 0x20 ≤ c.toNat ∧ c.toNat ≤ 0x7E then some (BitVec.ofNat 7 c.toNat) else none
  | .word w =>
    match hexExact 2 w with
    | some n => if n < 0x80 then some (BitVec.ofNat 7 n) else none
    | none => none
  | _ => none

/-- `TXT c1[, c2]`; a `c1` below 0x20 is no TXT unit (R101) and is refused (log entry 13). -/
def parseTxt (c1 : AsmTok) (c2 : Option AsmTok) : Option Instr :=
  match textOperand c1, (match c2 with | some t => textOperand t | none => some 0#7) with
  | some x, some y => if 0x20 ≤ x.toNat then some (txtInstr x y) else none
  | _, _ => none

/-- The characters of `TEXT`, each 0x20..0x7F (R105). -/
def textChars (cs : List Char) : Option (List (BitVec 7)) :=
  if cs.all fun c => decide (0x20 ≤ c.toNat ∧ c.toNat ≤ 0x7F) then some (cs.map fun c => BitVec.ofNat 7 c.toNat)
  else none

/-- A mnemonic line's instruction. -/
def parseInstr : List AsmTok → Option Instr
  | [.word m] => parseBare m
  | [.word m, .word a] => if m = "TXT".toList then parseTxt (.word a) none else parseIndexed m a
  | [.word m, .chr c] => if m = "TXT".toList then parseTxt (.chr c) none else none
  | [.word m, a, .comma, b] =>
    if m = "TXT".toList then parseTxt a (some b)
    else
      match a, b with
      | .word x, .word y => if m = "MID".toList then parseMid x y else none
      | _, _ => none
  | [.word m, .word r, .comma, .word f, .comma, .word u] => if m = "PAC".toList then parsePac r f u else none
  | _ => none

/-- A line (R103, R105). `DBL` and `BADP` take any line but an empty one, one of each other's too (log entry 16). -/
def parseLine : List AsmTok → Option AsmLine
  | .word m :: rest =>
    if m = "DBL".toList then (parseLine rest).map .dbl
    else if m = "BADP".toList then (parseLine rest).map .badp
    else
      match rest with
      | [.str s] => if m = "TEXT".toList then (textChars s).map .text else none
      | [.word h] =>
        if m = ".strip".toList then (hexExact 4 h).map fun n => .strip (BitVec.ofNat 16 n)
        else if m = ".word".toList then (hexExact 4 h).map fun n => .word (BitVec.ofNat 16 n)
        else (parseInstr (.word m :: rest)).map .instr
      | _ => (parseInstr (.word m :: rest)).map .instr
  | _ => none

/-- The raw units of one written line; an empty line or a comment emits none (log entry 16). -/
def assembleLine (cs : List Char) : Option (List CapUnit) :=
  match lexLine cs with
  | none => none
  | some [] => some []
  | some toks => (parseLine toks).map assemble

/-- Characters cut into lines. -/
def splitLines : List Char → List (List Char)
  | [] => [[]]
  | c :: cs =>
    if c = '\n' then [] :: splitLines cs
    else
      match splitLines cs with
      | l :: ls => (c :: l) :: ls
      | [] => [[c]]

/-- The raw units of a written program, `none` where a line is not one of R103 or R105. -/
def assembleText (src : String) : Option (List CapUnit) :=
  (splitLines src.toList).foldr (fun l acc =>
    match assembleLine l, acc with
    | some us, some vs => some (us ++ vs)
    | _, _ => none) (some [])

end Sys2Proof.Machine
end

