-- ==== Sys2Proof/Tests/Slice0.lean ====
section
/-! SUPPORT. The model's own tests. Expected results are the spec's: its encodings (30_encoding.md), its worked examples
and its test vectors (95_test_vectors.md), named by their identifiers there; and, at the end, a witness for every
statement that has hypotheses. -/

namespace Sys2Proof.Tests

open Sys2Proof Sys2Proof.Machine

set_option Elab.async false

/-! ## Helpers -/

/-- The units of a program in the spec's own syntax, as presented inputs. -/
def lines (src : String) : List PortInput := ((assembleText src).getD []).map PortInput.unit

/-- One step on the first unit of a program. -/
def one (s : State) (src : String) : Host.Outcome State Fault Refusal := step { s with input := lines src }

/-- The outcome is a next state with a property. -/
def gives (o : Host.Outcome State Fault Refusal) (p : State → Bool) : Bool :=
  match o with
  | .next t => p t
  | .fault _ => false
  | .refused _ => false

/-- A plain cell of a character. -/
def letter (c : Char) : Cell := ⟨BitVec.ofNat 21 c.toNat, 0#3, false⟩

/-- The cells of a text from `(r, c)` on. -/
def textAt (r c : Nat) (str : String) : Memory := str.toList.zipIdx.map fun e => (cellAddr r (c + e.2), letter e.1)

/-- Front active with a depth, the cursor at `(r, c)`, the front's DisplayState there too. -/
def onFront (depth r c : Nat) (cells : Memory) : State :=
  { State.reset with active := some .front, row := r, col := c, front := ⟨cells, ⟨depth, r, c⟩⟩ }

/-- Back active with depth 0, the cursor at `(r, c)`, the back's DisplayState there too. -/
def onBack (r c : Nat) (cells : Memory) : State :=
  { State.reset with active := some .back, row := r, col := c, back := ⟨cells, ⟨0, r, c⟩⟩ }

/-! ## Ill-formed instructions are refused -/

/-- TXT_A needs `s[13] = 1` (R101). -/
theorem test_ill_formed_txtA : (Instr.txtA 0x41#7 0x00#7).wellFormed = false := by decide
/-- TXT_B needs `s[13] = 0` (R101). -/
theorem test_ill_formed_txtB_bit5 : (Instr.txtB 0x61#7 0x00#7).wellFormed = false := by decide
/-- TXT_B needs `s[14] = 1` (R101). -/
theorem test_ill_formed_txtB_bit6 : (Instr.txtB 0x14#7 0x2C#7).wellFormed = false := by decide
/-- UNCL is no padding, no control unit and no raw unit (R89). -/
theorem test_ill_formed_uncl : (Instr.uncl 0x0000#16).wellFormed = false ∧ (Instr.uncl 0x142C#16).wellFormed = false
    ∧ (Instr.uncl 0x8101#16).wellFormed = false := by decide
/-- R89's corners, 2.2. -/
theorem test_well_formed_uncl : (Instr.uncl 0x0F7F#16).wellFormed = true ∧ (Instr.uncl 0x101F#16).wellFormed = true
    ∧ (Instr.uncl 0x1020#16).wellFormed = true ∧ (Instr.uncl 0x1730#16).wellFormed = true := by decide

/-! ## Decoding, words written out from the spec's encodings -/

/-- R141 to R156: the raw channel 1 units. -/
theorem test_decode_control14 :
    decode 0x9420#16 = .ok (.rcl false false) ∧ decode 0x94A1#16 = .ok (.bs false false)
    ∧ decode 0x94A2#16 = .ok (.aof false false) ∧ decode 0x9423#16 = .ok (.aon false false)
    ∧ decode 0x94A4#16 = .ok (.der false false) ∧ decode 0x9425#16 = .ok (.ru2 false false)
    ∧ decode 0x9426#16 = .ok (.ru3 false false) ∧ decode 0x94A7#16 = .ok (.ru4 false false)
    ∧ decode 0x94A8#16 = .ok (.fon false false) ∧ decode 0x9429#16 = .ok (.rdc false false)
    ∧ decode 0x942A#16 = .ok (.tr false false) ∧ decode 0x94AB#16 = .ok (.rtd false false)
    ∧ decode 0x942C#16 = .ok (.edm false false) ∧ decode 0x94AD#16 = .ok (.cr false false)
    ∧ decode 0x94AE#16 = .ok (.enm false false) ∧ decode 0x942F#16 = .ok (.eoc false false) := by decide

/-- R91's channel and field bits, on stripped units; CT35 and CT36 give the raw ones. -/
theorem test_decode_control14_bits :
    decodeStripped 0b0001010100101111#16 = .eoc false true ∧ decodeStripped 0b0001110000100000#16 = .rcl true false
    ∧ decode 0x1C20#16 = .ok (.rcl true false) ∧ decode 0x152F#16 = .ok (.eoc false true) := by decide

/-- R92: TO1 to TO3 and the other 0x17 keys; CT29 to CT34h give the raw units. -/
theorem test_decode_control17 :
    decode 0x97A1#16 = .ok (.to1 false) ∧ decode 0x97A2#16 = .ok (.to2 false) ∧ decode 0x9723#16 = .ok (.to3 false)
    ∧ decode 0x9720#16 = .ok (.ctl17_20 false) ∧ decode 0x97A4#16 = .ok (.ctl17_24_27 false 0#2)
    ∧ decode 0x972F#16 = .ok (.ctl17_28_2F false 7#3) ∧ decode 0x1FA1#16 = .ok (.to1 true)
    ∧ decodeStripped 0b0001111100100110#16 = .ctl17_24_27 true 2#2 := by decide

/-- R93: PAC 9, I8, U1 on both channels (PA5, PA8), and PAC 14, S1, U1 (P1). -/
theorem test_decode_pac :
    decodeStripped 0b0001010001110101#16 = .pac false 9#4 true 2#3 true
    ∧ decode 0x1C75#16 = .ok (.pac true 9#4 true 2#3 true) ∧ decode 0x9475#16 = .ok (.pac false 9#4 true 2#3 true)
    ∧ decode 0x9743#16 = .ok (.pac false 14#4 false 1#3 true) := by decide

/-- R94: MID 1, U1 (MI1) and MID 4, U0.C2 (MI5). -/
theorem test_decode_mid :
    decodeStripped 0b0001000100100011#16 = .mid false 1#3 true ∧ decode 0x9123#16 = .ok (.mid false 1#3 true)
    ∧ decode 0x19A8#16 = .ok (.mid true 4#3 false) := by decide

/-- R95: SPC 7 on both channels (SP3, SP4). -/
theorem test_decode_spc :
    decodeStripped 0b0001000100110111#16 = .spc false 7#4 ∧ decode 0x9137#16 = .ok (.spc false 7#4)
    ∧ decode 0x1937#16 = .ok (.spc true 7#4) := by decide

/-- R96: WE1 0x10, WE1 0x1A.C2, WE2 0x13 and WE2 0x1F (WE1, WE6, WE2, WE7). -/
theorem test_decode_we :
    decodeStripped 0b0001001000110000#16 = .we1 false 0x10#5 ∧ decode 0x92B0#16 = .ok (.we1 false 0x10#5)
    ∧ decode 0x1ABA#16 = .ok (.we1 true 0x1A#5) ∧ decode 0x13B3#16 = .ok (.we2 false 0x13#5)
    ∧ decode 0x13BF#16 = .ok (.we2 false 0x1F#5) := by decide

/-- R97: a space (TXT_A), 'H','I' and 'H' with 0x1F (TXT_B), and 0x7F (TXT_A) (TX1, TX3, TX8). -/
theorem test_decode_text :
    decode 0x2080#16 = .ok (.txtA 0x20#7 0x00#7) ∧ decode 0xC849#16 = .ok (.txtB 0x48#7 0x49#7)
    ∧ decode 0xC81F#16 = .ok (.txtB 0x48#7 0x1F#7) ∧ decode 0x7F80#16 = .ok (.txtA 0x7F#7 0x00#7)
    ∧ decodeStripped 0b0110000101000001#16 = .txtA 0x61#7 0x41#7 := by decide

/-- 2.1: padding, an unclassified unit and four parity failures. -/
theorem test_decode_other :
    decode 0x8080#16 = .ok .pad ∧ decode 0x0101#16 = .ok (.uncl 0x0101#16) ∧ decode 0x0000#16 = .error .parity
    ∧ decode 0x8000#16 = .error .parity ∧ decode 0x4849#16 = .error .parity ∧ decode 0x7FFF#16 = .error .parity := by
  decide

/-- 20_memory.md R62: the first byte is the high byte; the block takes whole units only (R64). -/
theorem test_decode_bytes : decodeBytes [0x94#8, 0x2C#8, 0x80#8] = .ok (.edm false false, [0x80#8])
    ∧ decodeBytes [0x94#8] = .error .truncated ∧ encodeBytes (.edm false false) = [0x94#8, 0x2C#8] := by decide

/-- R104's examples, and the suffixes and pseudo-instructions of R103 and R105. -/
theorem test_assembler_examples :
    assembleText "RCL\nEOC\nENM\nCR\nRU2\nTO1\nPAD\nTXT 'H','I'" =
      some [0x9420#16, 0x942F#16, 0x94AE#16, 0x94AD#16, 0x9425#16, 0x97A1#16, 0x8080#16, 0xC849#16]
    ∧ assembleText "PAC 9, I8, U1.C2 ; a comment\nTEXT \"ONE\"\nDBL RCL\nBADP EDM\n.word 0x1420\n.strip 0x1420" =
      some [0x1C75#16, 0x4FCE#16, 0x4580#16, 0x9420#16, 0x9420#16, 0x142C#16, 0x1420#16, 0x9420#16]
    ∧ assembleText "PAC 9, I9, U1" = none ∧ assembleText "CTL17 1" = none := by decide +kernel

/-- R103 writes a character code as 0xNN and a word as 0xHHHH, and in no other form. -/
theorem test_assembler_codes : assembleText "TXT 0x41" = some [0xC180#16] ∧ assembleText "TXT 65" = none
    ∧ assembleText ".word 0x9420" = some [0x9420#16] ∧ assembleText ".word 37920" = none
    ∧ assembleText ".strip 0x142" = none := by decide +kernel

/-- The host's table words: EDM from its stripped word, run as the first instruction after reset. -/
theorem test_table_word : decodeTableWord 16 0x142C = some (.edm false false)
    ∧ gives (step (State.reset.withFetchWord 16 0x142C)) (fun t => t.out.ready && t.n == 1) = true := by decide +kernel

/-! ## One step each (95_test_vectors.md, 2.3 to 2.8) -/

/-- CT2: RCL keeps cells and cursor. -/
theorem test_ct2_rcl : gives (one (onFront 1 0 2 (textAt 0 0 "AB")) "RCL") (fun t => t.active == some .back
    && t.col == 2 && t.front.ds.rollupDepth == 1 && t.front.cells == textAt 0 0 "AB" && !t.out.ready) = true := by
  decide +kernel
/-- CT38: a duplicate RCL is dropped. -/
theorem test_ct38_duplicate : gives (one
    ({ onBack 0 0 [] with last := 0x1420#16, n := 2, front := ⟨[], ⟨1, 0, 0⟩⟩ }) "RCL") (fun t => t.n == 3 && t.front.ds.rollupDepth == 1 && !t.out.ready) = true := by
  decide +kernel
/-- CT37: RCL on channel 2 is no duplicate. -/
theorem test_ct37_channel2 : gives (one ({ onBack 0 0 [] with last := 0x1420#16 }) "RCL.C2")
    (fun t => t.last == 0x1C20#16 && t.active == some .back) = true := by decide +kernel
/-- CT3 to CT6: the front's depth. -/
theorem test_ct3_rdc : gives (one State.reset "RDC") (fun t => t.active == some .front && t.front.ds == ⟨1, 0, 0⟩
    && t.back.ds == ⟨0, 0, 0⟩ && !t.out.ready) = true := by decide +kernel
theorem test_ct4_ru2 : gives (one State.reset "RU2") (fun t => t.active == some .front && t.front.ds == ⟨2, 0, 0⟩) =
    true := by decide +kernel
theorem test_ct5_ru3 : gives (one (onFront 2 0 0 []) "RU3") (fun t => t.active == some .front
    && t.front.ds == ⟨3, 0, 0⟩) = true := by decide +kernel
theorem test_ct6_ru4 : gives (one State.reset "RU4") (fun t => t.active == some .front && t.front.ds == ⟨4, 0, 0⟩) =
    true := by decide +kernel
/-- CT8: EDM clears the front, keeps the depth, is ready. -/
theorem test_ct8_edm : gives (one (onFront 2 0 2 (textAt 0 0 "HI")) "EDM") (fun t => t.front.cells == [] && t.col == 2
    && t.front.ds.rollupDepth == 2 && t.out.ready && t.out.changed) = true := by decide +kernel
/-- CT9: with CLEAR_RESETS_DISPLAY_STATE the depth goes. -/
theorem test_ct9_edm_resets : gives (one ({ onFront 2 0 2 (textAt 0 0 "HI") with
      params := { Params.default with clearResetsDisplayState := true } }) "EDM")
    (fun t => t.front.ds == ⟨0, 0, 0⟩ && t.col == 2) = true := by decide +kernel
/-- CT10: ENM. -/
theorem test_ct10_enm : gives (one (onBack 0 2 (textAt 0 0 "AB")) "ENM") (fun t => t.back.cells == [] && t.col == 2
    && !t.out.ready) = true := by decide +kernel
/-- CT12: EOC swaps buffers with their DisplayStates and homes the cursor. -/
theorem test_ct12_eoc : gives (one (onBack 14 8 (textAt 14 8 "X")) "EOC") (fun t => t.front.cells == textAt 14 8 "X"
    && t.front.ds == ⟨0, 14, 8⟩ && t.back.cells == [] && t.row == 0 && t.col == 0 && t.active == some .back
    && t.out.ready) = true := by decide +kernel
/-- CT13: after a roll-up the depth goes to the back. -/
theorem test_ct13_eoc : gives (one (onFront 3 0 1 (textAt 0 0 "R")) "EOC") (fun t => t.front.ds.rollupDepth == 0
    && t.back.ds.rollupDepth == 3 && t.back.cells == []) = true := by decide +kernel
/-- CT14: CR at depth 2 moves row 0 to row 1. -/
theorem test_ct14_cr : gives (one (onFront 2 0 2 (textAt 0 0 "AB")) "CR") (fun t => t.front.cells == textAt 1 0 "AB"
    && t.col == 0 && t.front.ds.col == 0 && !t.out.ready) = true := by decide +kernel
/-- CT16: at row 14 the guard keeps every cell. -/
theorem test_ct16_cr_guard : gives (one (onFront 2 14 2 (textAt 14 0 "AB")) "CR")
    (fun t => t.front.cells == textAt 14 0 "AB" && t.col == 0 && t.front.ds.col == 0) = true := by decide +kernel
/-- CT24: BS at column 0 stays and clears. -/
theorem test_ct24_bs : gives (one (onFront 1 0 0 (textAt 0 0 "A")) "BS") (fun t => t.front.cells == [] && t.col == 0) =
    true := by decide +kernel
/-- CT25: BS after the clamp clears column 30. -/
theorem test_ct25_bs : gives (one (onFront 1 0 31 (textAt 0 28 "WXYZ")) "BS")
    (fun t => t.front.cells == textAt 0 28 "WX" ++ textAt 0 31 "Z" && t.col == 30) = true := by decide +kernel
/-- CT22, CT26: before a mode under PRE_MODE_POLICY = fault. -/
theorem test_ct22_fault : one ({ State.reset with params := { Params.default with preModePolicy := .fault } }) "CR"
    matches .fault .preModeBufferCommand := by decide +kernel
/-- CT27: DER from the cursor on. -/
theorem test_ct27_der : gives (one (onFront 1 0 2 (textAt 0 0 "ABCD")) "DER")
    (fun t => t.front.cells == textAt 0 0 "AB" && t.col == 2) = true := by decide +kernel
/-- CT29 to CT32: the tabs, with and without the clamp. -/
theorem test_ct29_to1 : gives (one (onFront 1 0 0 []) "TO1") (fun t => t.col == 1 && t.front.ds == ⟨1, 0, 1⟩) = true := by
  decide +kernel
theorem test_ct30_to2 : gives (one (onBack 0 0 []) "TO2") (fun t => t.col == 2 && t.back.ds == ⟨0, 0, 2⟩) = true := by
  decide +kernel
theorem test_ct31_to3 : gives (one (onFront 1 0 29 []) "TO3") (fun t => t.col == 31 && t.front.ds.col == 31) = true := by
  decide +kernel
theorem test_ct32_to3 : gives (one ({ onFront 1 0 29 [] with params := { Params.default with tabClamp := false } }) "TO3")
    (fun t => t.col == 32 && t.front.ds.col == 32) = true := by decide +kernel
/-- CT34a to CT34h: the accepted no-ops change the last unit and nothing else. -/
theorem test_ct34_noops : (["AOF", "AON", "FON", "TR", "RTD", "CTL17 0", "CTL17 4", "CTL17 15"].all fun l =>
    gives (one (onFront 1 0 1 (textAt 0 0 "A")) l) fun t =>
      ({ t with last := 0#16, n := 0, out := Outputs.undefined } : State) == onFront 1 0 1 (textAt 0 0 "A")
        && t.last != 0#16 && !t.out.ready) = true := by decide +kernel
/-- PA3: the indent form sets row 12, column 4, plain style. -/
theorem test_pa3_pac : gives (one ({ onBack 0 0 [] with style := 3#3, underline := true }) "PAC 4, I4, U1")
    (fun t => t.row == 12 && t.col == 4 && t.style == 0#3 && t.underline && t.back.ds == ⟨0, 12, 4⟩) = true := by
  decide +kernel
/-- PA6, PA7: row select 1. -/
theorem test_pa6_pac_row : gives (one (onBack 11 8 []) "PAC 1, S0, U0") (fun t => t.row == 11 && t.col == 8
      && t.back.ds == ⟨0, 11, 8⟩) = true
    ∧ (one ({ onBack 0 0 [] with params := { Params.default with pacInvalidRowPolicy := .refuse } }) "PAC 1, S0, U0")
      matches .refused .pacRowInvalid := by decide +kernel
/-- PA8: before a mode a PAC is recorded and dropped. -/
theorem test_pa8_premode : gives (one State.reset "PAC 9, I8, U1") (fun t => t.last == 0x1475#16 && t.row == 0
    && t.col == 0 && t.style == 0#3) = true := by decide +kernel
/-- MI3: no cell, no cursor movement. -/
theorem test_mi3_mid : gives (one (onFront 1 0 2 (textAt 0 0 "AB")) "MID 2, U0") (fun t => t.style == 2#3
    && t.col == 2 && t.front.cells == textAt 0 0 "AB") = true := by decide +kernel
/-- MI2: the next character takes the style. -/
theorem test_mi2_style : gives (one ({ onFront 1 0 1 [] with style := 7#3 }) "TXT 'B'")
    (fun t => t.cellRead .front 0 1 == some ⟨0x42#21, 7#3, false⟩) = true := by decide +kernel
/-- TX1 and TX3: a pair, and a low byte that carries no character. -/
theorem test_tx1_pair : gives (one (onFront 1 0 0 []) "TXT 'H','I'") (fun t => t.front.cells == textAt 0 0 "HI"
    && t.col == 2 && t.out.ready) = true := by decide +kernel
theorem test_tx3_low : gives (one (onFront 1 0 0 []) "TXT 'H',0x1F") (fun t => t.front.cells == textAt 0 0 "H"
    && t.col == 1) = true := by decide +kernel
/-- TX5's last unit: at column 30 the second character lands in column 31. -/
theorem test_tx5_clamp : gives (one (onFront 1 0 30 (textAt 0 28 "WX")) "TXT 'Y','Z'")
    (fun t => t.front.cells == textAt 0 28 "WXYZ" && t.col == 31) = true := by decide +kernel
/-- TX8: 0x7F is the full block. -/
theorem test_tx8_block : gives (one (onFront 1 0 0 []) "TXT 0x7F")
    (fun t => t.cellRead .front 0 0 == some ⟨0x2588#21, 0#3, false⟩) = true := by decide +kernel
/-- R130 on a pair at column 31: the cell ends as it was, but both writes differed from what they found. A pair that
finds its own characters changes nothing. -/
theorem test_pair_changed : gives (one (onFront 1 0 31 (textAt 0 31 "B")) "TXT 'A','B'")
      (fun t => t.front.cells == textAt 0 31 "B" && t.out.changed) = true
    ∧ gives (one (onFront 1 0 0 (textAt 0 0 "AB")) "TXT 'A','B'") (fun t => !t.out.changed) = true := by decide +kernel
/-- SP2: the transparent space is a character. -/
theorem test_sp2_spc : gives (one (onFront 1 0 0 []) "SPC 9") (fun t => t.snapshot.content == [0xA0#21] && t.col == 1
    && t.out.ready) = true := by decide +kernel
/-- SP7: pop-on loading is not ready. -/
theorem test_sp7_spc : gives (one (onBack 0 0 []) "SPC 15")
    (fun t => t.cellRead .back 0 0 == some ⟨0xFB#21, 0#3, false⟩ && !t.out.ready) = true := by decide +kernel
/-- WE3: at column 0 the backspace stays. -/
theorem test_we3_col0 : gives (one (onFront 1 0 0 []) "WE1 0x00")
    (fun t => t.cellRead .front 0 0 == some ⟨0xC1#21, 0#3, false⟩ && t.col == 1) = true := by decide +kernel
/-- WE4: after the clamp column 30 is replaced. -/
theorem test_we4_clamp : gives (one (onFront 1 0 31 (textAt 0 28 "WXYZ")) "WE1 0x00")
    (fun t => t.snapshot.content == [0x57#21, 0x58#21, 0xC1#21, 0x5A#21] && t.col == 31) = true := by decide +kernel
/-- WE2, WE7: set 2 and its last index. -/
theorem test_we2_umlaut : gives (one (onFront 1 0 1 (textAt 0 0 "o")) "WE2 0x13")
    (fun t => t.front.cells == [(0, ⟨0xF6#21, 0#3, false⟩)] && t.col == 1) = true := by decide +kernel
theorem test_we7_last : gives (one (onFront 1 0 1 (textAt 0 0 "x")) "WE2 0x1F")
    (fun t => t.front.cells == [(0, ⟨0x2518#21, 0#3, false⟩)]) = true := by decide +kernel
/-- E1, E2, E4 and an unclassified unit (60_exceptions.md R271, 40_decode_step.md R127). -/
theorem test_drops : gives (one (onFront 1 0 0 []) "BADP TXT 'A'") (fun t => t.last == 0#16 && t.n == 1 && t.col == 0) = true
    ∧ gives (one ({ onFront 1 0 0 [] with last := 0x1425#16 }) "PAD") (fun t => t.last == 0x1425#16 && t.n == 1) = true
    ∧ gives (one (onFront 1 0 0 []) ".strip 0x0101") (fun t => t.last == 0x0101#16 && t.col == 0 && !t.out.ready) = true := by
  decide +kernel
/-- 70_reset_and_hazards.md R290, R291: reset keeps the parameters. -/
theorem test_reset_event : gives (step
      ({ onFront 3 2 5 (textAt 2 0 "AB") with params := { Params.default with tabClamp := false }, input := [.rst] }))
    (fun t => t == State.resetWith { Params.default with tabClamp := false }) = true := by decide +kernel
/-- 40_decode_step.md R133: with nothing presented there is no step. -/
theorem test_no_unit : step State.reset matches .refused .noUnit := by decide

/-! ## Roll-up, snapshot, envelope (2.9 to 2.11) -/

/-- 2.9's buffer: row `r` holds the one character 0x41 + r. -/
def ladder : State :=
  { State.reset with front := ⟨(List.range 15).map fun r => (32 * r, ⟨BitVec.ofNat 21 (0x41 + r), 0#3, false⟩), ⟨0, 0, 0⟩⟩ }

/-- The code points of column 0 of the front, rows 0 to 14. -/
def column0 (s : State) : List Nat := (List.range 15).map fun r => (s.front.cellAt r 0).cp.toNat

/-- 2.9: rows 11 (depth 4), 3 (depth 2), 3 (depth 0) and the guards at row 12 (depth 4) and row 0 (depth 0). -/
theorem test_rollup_shift :
    column0 (ladder.rollupShift .front 11 4) = [65, 66, 67, 68, 69, 70, 71, 72, 73, 74, 75, 0, 76, 77, 78]
    ∧ column0 (ladder.rollupShift .front 3 2) = [65, 66, 67, 0, 68, 70, 71, 72, 73, 74, 75, 76, 77, 78, 79]
    ∧ column0 (ladder.rollupShift .front 3 0) = [65, 66, 67, 0, 69, 70, 71, 72, 73, 74, 75, 76, 77, 78, 79]
    ∧ (ladder.rollupShift .front 12 4) = ladder ∧ (ladder.rollupShift .front 0 0) = ladder := by decide +kernel

/-- SN1, SN3, SN11: the mode of the snapshot. -/
theorem test_snapshot_mode : State.reset.snapshot = ⟨.unknown, 0, 0, 0, []⟩
    ∧ (onBack 0 0 []).snapshot = ⟨.popOn, 0, 15, 0, []⟩
    ∧ ({ onFront 2 0 0 (textAt 0 0 "A") with active := some .back } : State).snapshot = ⟨.paintOn, 2, 15, 0, [0x41#21]⟩ := by
  decide +kernel
/-- R238: roll-up 3 at row 13, column 9 (Mode 2, Row 15 - 13, Col in 5 bits); a Col of 6 bits without TAB_CLAMP; reset. -/
theorem test_snap_port : (onFront 3 13 9 (textAt 13 8 "A")).snapPort 0 = ⟨2#2, 3#3, 2#4, 9#5, [0x41#21]⟩
    ∧ ({ onFront 1 0 33 [] with params := { Params.default with tabClamp := false } } : State).snapPort 0 =
        ⟨2#2, 1#3, 15#4, 33#6, []⟩
    ∧ State.reset.snapPort 0 = ⟨0#2, 0#3, 0#4, 0#5, []⟩ := by decide +kernel
/-- SN8, SN9, SN10, SN12: rendering and its two strings. -/
theorem test_render :
    render Params.default ⟨textAt 0 0 "A" ++ textAt 0 4 "B", ⟨1, 0, 4⟩⟩ = [0x41#21, 0x42#21]
    ∧ (render { Params.default with emptyCellText := [0x20#21] } ⟨textAt 0 0 "A" ++ textAt 0 4 "B", ⟨1, 0, 4⟩⟩) =
        [0x41#21, 0x20#21, 0x20#21, 0x20#21, 0x42#21] ++ List.replicate 27 0x20#21
    ∧ render Params.default ⟨textAt 0 0 "B" ++ textAt 14 0 "T", ⟨1, 0, 0⟩⟩ = [0x54#21, 0x0A#21, 0x42#21]
    ∧ render { Params.default with lineBreak := [0x7C#21] } ⟨textAt 0 0 "B" ++ textAt 1 0 "A", ⟨2, 0, 0⟩⟩ =
        [0x41#21, 0x7C#21, 0x42#21] := by decide +kernel

/-- EV4, EV6, EV9, EV10, EV11. -/
theorem test_extract_ok :
    extract 3 [0xB5#8, 0x00#8, 0x31#8, 0x47#8, 0x41#8, 0x39#8, 0x34#8, 0x03#8, 0xC2#8, 0xFF#8, 0xFC#8, 0x94#8, 0x20#8,
        0xFD#8, 0x80#8, 0x80#8] = .ok [0x9420#16]
    ∧ extract 3 [0xB5#8, 0x00#8, 0x2F#8, 0x03#8, 0xC1#8, 0xFF#8, 0xFC#8, 0x94#8, 0x20#8] = .ok [0x9420#16]
    ∧ extract 3 [0xFF#8, 0x01#8, 0x00#8, 0x2F#8, 0x03#8, 0xC1#8, 0xFF#8, 0xFC#8, 0xC8#8, 0x49#8] = .ok [0xC849#16]
    ∧ extract 3 [0xB5#8, 0x00#8, 0x2F#8, 0x03#8, 0xC3#8, 0xFF#8, 0xF8#8, 0x94#8, 0x20#8, 0xFE#8, 0x11#8, 0x22#8, 0xFC#8,
        0x94#8, 0x2F#8] = .ok [0x942F#16]
    ∧ extract 3 [0xB5#8, 0x00#8, 0x2F#8, 0x03#8, 0xC0#8, 0xFF#8] = .ok [] := by decide
/-- EV1, EV2, EV3, EV5, EV7, EV8, EV13. -/
theorem test_extract_other :
    extract 3 [0xB5#8] = .structural ∧ extract 3 [0xB5#8, 0x00#8] = .structural
    ∧ extract 3 [0xB5#8, 0x00#8, 0x31#8] = .structural
    ∧ extract 3 [0xB5#8, 0x00#8, 0x31#8, 0x47#8, 0x41#8, 0x39#8, 0x34#8, 0x03#8, 0xC2#8, 0xFF#8, 0xFC#8, 0x94#8, 0x20#8,
        0xFD#8, 0x80#8] = .structural
    ∧ extract 3 [0xB5#8, 0x00#8, 0x30#8, 0x03#8] = .ok []
    ∧ extract 3 [0xB5#8, 0x00#8, 0x2F#8, 0x04#8, 0xC1#8, 0xFF#8, 0xFC#8, 0x94#8, 0x20#8] = .ok []
    ∧ extract 3 [0xB5#8, 0x00#8, 0x2F#8, 0x03#8, 0xDF#8, 0xFF#8] = .structural := by decide

/-! ## Witnesses

For every statement with hypotheses, a concrete state and operands that meet all of them together; where a statement
has several clauses, one for each clause, at a boundary of its range. -/

theorem next_of_gives {o : Host.Outcome State Fault Refusal} {p : State → Bool} (h : gives o p = true) :
    ∃ t, o = .next t := by
  cases o with
  | next t => exact ⟨t, rfl⟩
  | fault f => cases h
  | refused r => cases h

/-- A state with units presented. -/
def fed (s : State) (us : List CapUnit) : State := { s with input := us.map PortInput.unit }

/-- Paint-on, the cursor at row 14, column 31, one character there. -/
def corner : State := onFront 1 14 31 (textAt 14 31 "Z")

/-- Roll-up of depth 2 at base row 13, the highest where the window fits. -/
def window : State := onFront 2 13 3 (textAt 13 0 "ABC")

theorem witness_DecodeOfEncode : (Instr.txtA 0x20#7 0x00#7).wellFormed = true ∧ (Instr.txtB 0x40#7 0x7F#7).wellFormed = true
    ∧ (Instr.uncl 0x0001#16).wellFormed = true := by decide
theorem witness_EncodeOfDecode : decode 0x8080#16 = .ok .pad ∧ decode 0x7F7F#16 = .ok (.txtA 0x7F#7 0x7F#7) := by decide
theorem witness_DecoderFollowsOpcodeMap : strip 0x7F7F#16 = 0x7F7F#16 ∧ strip 0x0000#16 = 0x0000#16 := by decide
/-- Clause 1 on a WE unit, clause 2 on EOC. -/
theorem witness_ChannelAndFieldIgnored : (strip 0x123F#16 = 0x123F#16 ∧ classify 0x123F#16 ≠ .basic
      ∧ classify 0x123F#16 ≠ .pad ∧ classify 0x123F#16 ≠ .unclassified)
    ∧ strip 0x142F#16 = 0x142F#16 ∧ 0x142F#16 &&& 0x7670#16 = 0x1420#16 := by decide
theorem witness_StepRunsDecoded : (fed corner [0x942C#16]).input = .unit 0x942C#16 :: []
    ∧ decode 0x942C#16 = .ok (.edm false false) ∧ ¬ Duplicate (fed corner [0x942C#16]) 0x942C#16 := by
  unfold Duplicate; decide +kernel
/-- One even byte, on either side. -/
theorem witness_ParityFailureDrops : (fed corner [0x142C#16]).input = .unit 0x142C#16 :: []
    ∧ popcount (highByte 0x142C#16) % 2 = 0 ∧ popcount (lowByte 0x9421#16) % 2 = 0 := by decide +kernel
theorem witness_PaddingDrops : (fed corner [0x8080#16]).input = .unit 0x8080#16 :: []
    ∧ parityOk 0x8080#16 = true ∧ strip 0x8080#16 = 0#16 := by decide +kernel
/-- Clause 1 on a CONTROL and a SPECIAL unit, clause 2 on a unit of each class it lists. -/
theorem witness_DuplicateDrops :
    ((fed { corner with last := 0x142C#16 } [0x942C#16]).input = .unit 0x942C#16 :: [] ∧ parityOk 0x942C#16 = true
      ∧ classify (strip 0x942C#16) = .control ∧ strip 0x942C#16 = (fed { corner with last := 0x142C#16 } [0x942C#16]).last)
    ∧ (parityOk 0x9137#16 = true ∧ classify (strip 0x9137#16) = .special)
    ∧ ([0x9475#16, 0x9123#16, 0x92B0#16, 0xC849#16, 0x0101#16].all fun u => parityOk u
        && [UnitClass.pac, .midrow, .we, .basic, .unclassified].contains (classify (strip u))) = true := by decide +kernel
theorem witness_StepRecordsUnit : (fed corner [0x0101#16]).input = .unit 0x0101#16 :: [] ∧ parityOk 0x0101#16 = true
    ∧ strip 0x0101#16 ≠ 0#16 ∧ ¬ Duplicate (fed corner [0x0101#16]) 0x0101#16
    ∧ ∃ t, step (fed corner [0x0101#16]) = .next t := by
  refine ⟨by decide, by decide, by decide, by unfold Duplicate; decide +kernel, ?_⟩
  exact next_of_gives (p := fun _ => true) (by decide +kernel)
theorem witness_NoModeDrops : (fed State.reset [0xC849#16]).active = none
    ∧ (fed State.reset [0xC849#16]).input = .unit 0xC849#16 :: [] ∧ parityOk 0xC849#16 = true ∧ strip 0xC849#16 ≠ 0#16
    ∧ ¬ Duplicate (fed State.reset [0xC849#16]) 0xC849#16 ∧ classify (strip 0xC849#16) ≠ .control := by
  unfold Duplicate; decide +kernel
/-- A unit first, and `rst` first. -/
theorem witness_StreamReadForward : (fed corner [0x942C#16, 0x8080#16]).input = .unit 0x942C#16 :: [.unit 0x8080#16]
    ∧ (∃ t, step (fed corner [0x942C#16, 0x8080#16]) = .next t)
    ∧ ({ corner with input := [.rst, .unit 0x8080#16] } : State).input = .rst :: [.unit 0x8080#16]
    ∧ ∃ t, step { corner with input := [.rst, .unit 0x8080#16] } = .next t :=
  ⟨by decide, next_of_gives (p := fun _ => true) (by decide +kernel), by decide,
    next_of_gives (p := fun _ => true) (by decide +kernel)⟩
theorem witness_StepCountsUnits : (fed corner [0x8080#16]).input = .unit 0x8080#16 :: []
    ∧ ∃ t, step (fed corner [0x8080#16]) = .next t :=
  ⟨by decide, next_of_gives (p := fun _ => true) (by decide +kernel)⟩
theorem witness_DecodeNeverErrs : (fed corner [0x94AD#16]).input = .unit 0x94AD#16 :: []
    ∧ (fed corner [0x94AD#16]).params.preModePolicy = .ignore
    ∧ (fed corner [0x94AD#16]).params.pacInvalidRowPolicy = .ignore ∧ ∃ t, step (fed corner [0x94AD#16]) = .next t :=
  ⟨by decide, by decide, by decide, next_of_gives (p := fun _ => true) (by decide +kernel)⟩
/-- Each of the three outcomes: CT14, CT22 and PA7. -/
theorem witness_StepOutcomesClosed : (fed corner [0x94AD#16]).input = .unit 0x94AD#16 :: []
    ∧ gives (step (fed corner [0x94AD#16])) (fun _ => true) = true
    ∧ (step (fed { State.reset with params := { Params.default with preModePolicy := .fault } } [0x94AD#16])
        matches .fault .preModeBufferCommand)
    ∧ (step (fed { corner with params := { Params.default with pacInvalidRowPolicy := .refuse } } [0x10E0#16])
        matches .refused .pacRowInvalid) := by decide +kernel
theorem witness_ResetEventResets : ({ corner with input := [.rst] } : State).input = .rst :: [] := by decide
theorem witness_ParamsNeverWritten : ∃ t, step { corner with input := [.rst] } = .next t :=
  next_of_gives (p := fun _ => true) (by decide +kernel)

/-- The defaults are legal. -/
theorem default_legal : Params.default.Legal := by
  refine ⟨by decide +kernel, by decide +kernel, by decide, ?_, by decide, by decide, by decide⟩
  intro r hr
  simp [Params.default, defaultRowMap] at hr
  omega
theorem window_inv : window.Inv where
  params := default_legal
  row := by decide
  col := fun _ => by decide
  front := ⟨by decide +kernel, by decide +kernel, by decide, by decide, fun _ => by decide⟩
  back := ⟨by decide, by decide, by decide, by decide, fun _ => by decide⟩
  last := by decide
  err := rfl

/-- Paint-on without TAB_CLAMP, the cursor at column 63 of row 0. -/
def wide : State := { onFront 1 0 63 [] with params := { Params.default with tabClamp := false } }
theorem wide_inv : wide.Inv where
  params := default_legal
  row := by decide
  col := fun h => by cases h
  front := ⟨by decide, by decide, by decide, by decide, fun h => by cases h⟩
  back := ⟨by decide, by decide, by decide, by decide, fun h => by cases h⟩
  last := by decide
  err := rfl

theorem witness_StepKeepsInv : (fed window [0x94AD#16]).Inv ∧ ∃ t, step (fed window [0x94AD#16]) = .next t :=
  ⟨⟨window_inv.params, window_inv.row, window_inv.col, window_inv.front, window_inv.back, window_inv.last, rfl⟩,
    next_of_gives (p := fun _ => true) (by decide +kernel)⟩
/-- A no-op leaves no mode, and a mode command ends it. -/
theorem witness_StepKeepsPreModeFresh : (fed State.reset [0x94A2#16]).PreModeFresh
    ∧ gives (step (fed State.reset [0x94A2#16])) (fun t => t.active == none) = true
    ∧ gives (step (fed State.reset [0x9420#16])) (fun t => t.active == some .back) = true := by
  refine ⟨fun _ => ⟨fun b r c h => ?_, rfl, rfl, rfl, rfl, rfl, rfl⟩, by decide +kernel, by decide +kernel⟩
  unfold State.cellRead
  rw [if_pos h]
  cases b <;> rfl
/-- A command that selects and one that does not; a step from no mode into one. -/
theorem witness_ActiveSelectedByModeCommands :
    gives (exec (.rcl false false) corner) (fun t => t.active == some .back) = true
    ∧ gives (exec (.edm false false) corner) (fun t => t.active == some .front) = true
    ∧ (fed State.reset [0x9420#16]).input = .unit 0x9420#16 :: [] ∧ (fed State.reset [0x9420#16]).active = none
    ∧ (fed corner [0x942C#16]).active ≠ none
    ∧ gives (step (fed State.reset [0x9420#16])) (fun t => t.active != none) = true := by decide +kernel
theorem witness_RowWriters : (∃ t, exec (.cr false false) window = .next t) ∧ (Instr.cr false false).setsRow = false
    ∧ window.Inv ∧ ∃ t, exec (.pac false 2#4 true 7#3 true) window = .next t :=
  ⟨⟨_, rfl⟩, rfl, window_inv, next_of_gives (p := fun t => t.row == 14) (by decide +kernel)⟩
theorem witness_ColumnWriters : (∃ t, exec (.der false false) corner = .next t)
    ∧ (Instr.der false false).movesColumn = false := ⟨⟨_, rfl⟩, by decide⟩
theorem witness_UnderlineWriters : (∃ t, exec (.txtA 0x41#7 0x42#7) corner = .next t)
    ∧ (Instr.txtA 0x41#7 0x42#7).setsStyle = false ∧ inRange corner.row corner.col := ⟨⟨_, rfl⟩, rfl, by decide⟩
theorem witness_InstrWritesOnlyItsOwn : (∃ t, exec (.eoc false false) corner = .next t)
    ∧ ∃ t, exec (.we2 false 0x1F#5) State.reset = .next t := ⟨⟨_, rfl⟩, ⟨_, rfl⟩⟩
/-- The guard at its two edges (13 + 2 = 15, 14 + 2 = 16) and at 0. -/
theorem witness_CarriageReturnRollsUp : window.active = some .front ∧ window.row + window.front.ds.rollupDepth = 15
    ∧ (onFront 2 14 0 []).active = some .front ∧ (onFront 2 14 0 []).row + (onFront 2 14 0 []).front.ds.rollupDepth = 16
    ∧ (onBack 0 0 []).active = some .back ∧ (onBack 0 0 []).row + (onBack 0 0 []).back.ds.rollupDepth = 0 := by decide
/-- At column 0, at column 31, and (TAB_CLAMP = false) with the cleared cell out of range. -/
theorem witness_BackspaceClearsCell : (onFront 1 0 0 []).active = some .front ∧ inRange 0 ((onFront 1 0 0 []).col - 1)
    ∧ corner.active = some .front ∧ inRange corner.row (corner.col - 1) ∧ ¬ inRange 0 ((onFront 1 0 33 []).col - 1) := by
  decide
theorem witness_DeleteToEndOfRow : corner.active = some .front ∧ inRange corner.row 31 ∧ corner.col ≤ 31 := by decide
/-- With the clamp and without it, at column 29. -/
theorem witness_TabOffsetsMoveColumn : (onBack 0 29 []).active = some .back
    ∧ (onBack 0 29 []).params.tabClamp = true
    ∧ ({ onBack 0 29 [] with params := { Params.default with tabClamp := false } } : State).params.tabClamp = false := by
  decide
theorem witness_BufferCommandsBeforeMode : (Instr.to3 true).needsBuffer = true ∧ State.reset.active = none
    ∧ State.reset.params.preModePolicy = .ignore
    ∧ ({ State.reset with params := { Params.default with preModePolicy := .fault } } : State).params.preModePolicy =
        .fault := by decide
theorem witness_AcceptedNoopsWriteNothing : ([Instr.aof false false, .aon false false, .fon false false, .tr false false,
    .rtd false false, .ctl17_20 false, .ctl17_24_27 false 3#2, .ctl17_28_2F false 7#3].all (·.isAcceptedNoop)) = true := by
  decide
/-- Row selects 2 (row 14) and 9 (row 0). -/
theorem witness_PreambleSetsCursor : window.active = some .front ∧ window.params.rowOf 2#4 = some 14
    ∧ window.params.rowOf 9#4 = some 0 := by decide
theorem witness_PreambleInvalidRow : window.active ≠ none ∧ window.params.rowOf 1#4 = none
    ∧ window.params.pacInvalidRowPolicy = .ignore
    ∧ ({ window with params := { Params.default with pacInvalidRowPolicy := .refuse } } : State).params.pacInvalidRowPolicy =
        .refuse := by decide
theorem witness_MidRowSetsStyle : corner.active = some .front := rfl
theorem witness_SpecialWritesChar : corner.active = some .front ∧ inRange corner.row corner.col := by decide
/-- At column 0 (no column to back up to) and at column 31. -/
theorem witness_WestEuReplacesPrevious : corner.active = some .front ∧ inRange corner.row (corner.col - 1)
    ∧ (onFront 1 0 0 []).active = some .front ∧ inRange 0 ((onFront 1 0 0 []).col - 1) := by decide
/-- The low byte on either side of 0x20; the cursor at column 31 and at column 30; what the second write finds there. -/
theorem witness_BasicPairWrites : corner.active = some .front ∧ (0x1F#7).toNat < 0x20 ∧ 0x20 ≤ (0x20#7).toNat
    ∧ inRange corner.row corner.col ∧ corner.row < 15 ∧ (onFront 1 0 30 []).active = some .front
    ∧ inRange (onFront 1 0 30 []).row (onFront 1 0 30 []).col ∧ (onFront 1 0 30 []).col ≠ 31
    ∧ secondFinds corner .front 33 = some (letter 'A')
    ∧ secondFinds (onFront 1 0 30 []) .front 33 = some Cell.empty := by decide +kernel
theorem witness_TextReadiness : (Instr.spc false 0#4).isText = true ∧ (Instr.txtB 0x41#7 0#7).isText = true
    ∧ (Instr.we1 false 0#5).isText = true ∧ corner.active = some .front ∧ (onBack 0 0 []).active = some .back := by decide
theorem witness_ReadyExactlyWhen : (fed corner [0xC849#16]).input = .unit 0xC849#16 :: []
    ∧ gives (step (fed corner [0xC849#16])) (fun t => t.out.ready) = true
    ∧ gives (step (fed (onBack 0 0 []) [0xC849#16])) (fun t => !t.out.ready) = true := by decide +kernel
/-- RCL, padding, a parity failure, RCL. -/
theorem noise_dropped : ∀ v ∈ [0x8080#16, 0x1420#16], parityOk v = false ∨ strip v = 0#16 := by
  intro v hv
  rcases List.mem_pair.mp hv with rfl | rfl
  · exact Or.inr (by decide)
  · exact Or.inl (by decide)
theorem witness_RepeatedControlRunsOnce : classify (strip 0x9420#16) = .control
    ∧ (∀ v ∈ [0x8080#16, 0x1420#16], parityOk v = false ∨ strip v = 0#16)
    ∧ (fed corner [0x9420#16, 0x8080#16, 0x1420#16, 0x9420#16]).input =
        .unit 0x9420#16 :: ([0x8080#16, 0x1420#16].map PortInput.unit ++ .unit 0x9420#16 :: [])
    ∧ ∃ t, step (fed corner [0x9420#16, 0x8080#16, 0x1420#16, 0x9420#16]) = .next t :=
  ⟨by decide, noise_dropped, by decide, next_of_gives (p := fun _ => true) (by decide +kernel)⟩
theorem witness_PopOnIsolation : (onBack 14 31 (textAt 14 30 "AB")).active = some .back
    ∧ gives (exec (.we1 false 0#5) (onBack 14 31 (textAt 14 30 "AB"))) (fun _ => true) = true
    ∧ (Instr.we1 false 0#5).isDisplayEvent = false ∧ (Instr.we1 false 0#5).selects ≠ some .front :=
  ⟨rfl, by decide +kernel, by decide, by decide⟩
theorem witness_BuffersIndependent : BufSel.back ≠ BufSel.front := by decide
/-- The last cell, and one row and one column past it. -/
theorem witness_CellWriteThenRead : inRange 14 31 ∧ ¬ inRange 15 0 ∧ ¬ inRange 0 32
    ∧ (BufSel.front, 14, 31) ≠ (BufSel.back, 14, 31) := by decide
/-- A paint-on and a pop-on state and one with no buffer; the invariant with the front at row 13 and at the reset row;
without TAB_CLAMP the last column of 6 bits. -/
theorem witness_SnapshotMode : window.active ≠ none ∧ 0 < window.front.ds.rollupDepth
    ∧ (onBack 0 0 []).active ≠ none ∧ (onBack 0 0 []).front.ds.rollupDepth = 0 ∧ State.reset.active = none
    ∧ window.Inv ∧ window.params.tabClamp = true ∧ window.snapshot.col < 2 ^ window.params.colBits 0
    ∧ wide.Inv ∧ wide.active ≠ none ∧ wide.params.tabClamp = false ∧ wide.snapshot.col = 63
    ∧ wide.snapshot.col < 2 ^ wide.params.colBits 0 :=
  ⟨by decide, by decide, by decide, by decide, rfl, window_inv, rfl, by decide +kernel, wide_inv, by decide, rfl, rfl,
    by decide +kernel⟩
/-- Two states that differ in the back buffer, the cursor, the last unit and the count. -/
theorem witness_SnapshotSeesFrontOnly :
    ∀ t : State, t = { corner with back := ⟨textAt 0 0 "B", ⟨4, 1, 1⟩⟩, row := 0, col := 0, last := 0x142C#16, n := 9 } →
      t.params = corner.params ∧ (t.active = none ↔ corner.active = none) ∧ t.front.ds = corner.front.ds
        ∧ (∀ r c, inRange r c → (t.front.cellAt r c).cp = (corner.front.cellAt r c).cp) ∧ t ≠ corner := by
  rintro t rfl
  exact ⟨rfl, Iff.rfl, rfl, fun _ _ _ => rfl, by decide +kernel⟩
/-- The one premise, of the middle clause. -/
theorem witness_EmptyBufferRendersNothing : Params.default.emptyCellText = [] := rfl
/-- Row 14, the last, and row 15. -/
theorem witness_CellPortReadsBuffers : (14#4 : BitVec 4) ≠ 15#4 ∧ corner.cellPort false 14#4 31#5 = some (letter 'Z')
    ∧ corner.cellPort true 15#4 0#5 = none := by decide +kernel

/-- The window of a state whose front holds its one listed row only. -/
theorem window_kept : RollupWindow 2 13 (fed window [0x94AD#16]) := by
  refine ⟨rfl, rfl, rfl, by decide, fun r c h ho => ?_⟩
  have key : ∀ r, r < 15 → ∀ c, c < 32 → (r < 13 ∨ 13 + 2 ≤ r) →
      (fed window [0x94AD#16]).cellRead .front r c = some Cell.empty := by decide +kernel
  exact key r h.1 c h.2 ho
/-- CR in the window. -/
theorem witness_RollupWindowKept : 2 ≤ 2 ∧ RollupWindow 2 13 (fed window [0x94AD#16])
    ∧ (fed window [0x94AD#16]).input = .unit 0x94AD#16 :: [] ∧ (∃ t, step (fed window [0x94AD#16]) = .next t)
    ∧ (decodeStripped (strip 0x94AD#16)).selects = none ∧ (decodeStripped (strip 0x94AD#16)).isDisplayEvent = false
    ∧ (decodeStripped (strip 0x94AD#16)).unitClass ≠ .pac :=
  ⟨by decide, window_kept, by decide, next_of_gives (p := fun _ => true) (by decide +kernel), by decide, by decide,
    by decide⟩
theorem witness_RollupShowsAtMostDepth : RollupWindow 2 13 (fed window [0x94AD#16]) := window_kept
/-- The two entries of rule R259's payload, the first kept. -/
def entries259 : List (Octet × Octet × Octet) := [(0xFC#8, 0x94#8, 0x20#8), (0xFD#8, 0x80#8, 0x80#8)]

/-- Rule R259's payload with either form of the country code, at the minimum length the buffer has; a cut at its last
byte; provider 48 and type 4 beside 47, 49 and 3; a buffer one byte short; an Ok result (EV4) and an error. -/
theorem witness_EnvelopeExtraction : CountryCode [0xB5#8] ∧ CountryCode [0xFF#8, 0x01#8]
    ∧ [(0x47#8 : Octet), 0x41#8, 0x39#8, 0x34#8].length = 4
    ∧ ((0xC2#8 : Octet).extractLsb' 0 5).toNat = entries259.length ∧ keptUnits entries259 = [0x9420#16]
    ∧ 12 ≤ ([0xB5#8] ++ [0x00#8, 0x2F#8, 0x03#8, 0xC2#8, 0xFF#8] ++ entryBytes entries259 ++ []).length
    ∧ 16 ≤ ([0xB5#8] ++ [0x00#8, 0x31#8] ++ [0x47#8, 0x41#8, 0x39#8, 0x34#8] ++ [0x03#8, 0xC2#8, 0xFF#8]
        ++ entryBytes entries259 ++ []).length
    ∧ 11 < ([0xB5#8] ++ [0x00#8, 0x2F#8, 0x03#8, 0xC2#8, 0xFF#8] ++ entryBytes entries259).length
    ∧ 15 < ([0xB5#8] ++ [0x00#8, 0x31#8] ++ [0x47#8, 0x41#8, 0x39#8, 0x34#8] ++ [0x03#8, 0xC2#8, 0xFF#8]
        ++ entryBytes entries259).length
    ∧ unitOfBytes 0x00#8 0x30#8 ≠ 47#16 ∧ unitOfBytes 0x00#8 0x30#8 ≠ 49#16 ∧ (0x04#8 : Octet) ≠ 0x03#8
    ∧ 3 ≤ ([0xB5#8] ++ [0x00#8, 0x30#8] ++ []).length ∧ [(0xB5#8 : Octet), 0x00#8].length < 3
    ∧ extract corner.params.envelopeMinHeader [0xB5#8, 0x00#8, 0x31#8, 0x47#8, 0x41#8, 0x39#8, 0x34#8, 0x03#8, 0xC2#8,
        0xFF#8, 0xFC#8, 0x94#8, 0x20#8, 0xFD#8, 0x80#8, 0x80#8] = .ok [0x9420#16]
    ∧ extract corner.params.envelopeMinHeader [0xB5#8] = .structural :=
  ⟨Or.inl ⟨0xB5#8, by decide, rfl⟩, Or.inr ⟨0x01#8, rfl⟩, by decide +kernel⟩

end Sys2Proof.Tests
end

/-! Proofs: the state (10_state.md), what selects the active buffer (R26) and that the buffers share nothing (R25). -/

section

namespace Sys2Proof.Machine

/-! ## What holds of every next state of the shared control -/

/-- What the command leaves on the active buffer, and `return (false, 0)` too, `RequireActive` leaves. -/
theorem requireActive_ensures (P : State → Prop) {s t : State} {k : BufSel → State}
    (hk : ∀ b, s.active = some b → P (k b)) (hret : P (s.ret false)) (h : requireActive s k = .next t) : P t := by
  obtain ⟨b, hb, rfl⟩ | ⟨-, -, rfl⟩ := requireActive_next h
  · exact hk b hb
  · exact hret

/-- What the unit's meaning leaves on the active buffer, and `return (false, 0)` too, step 6 leaves. -/
theorem whenActive_ensures (P : State → Prop) {s t : State} {k : BufSel → Host.Outcome State Fault Refusal}
    (hk : ∀ b, s.active = some b → k b = .next t → P t) (hret : P (s.ret false)) (h : whenActive s k = .next t) :
    P t := by
  obtain ⟨b, hb, hkb⟩ | ⟨-, rfl⟩ := whenActive_next h
  · exact hk b hb hkb
  · exact hret

/-! ## The active buffer through the meanings that share a body -/

theorem requireActive_active {s t : State} {k : BufSel → State} (hk : ∀ b, (k b).active = s.active)
    (h : requireActive s k = .next t) : t.active = s.active :=
  requireActive_ensures (fun t => t.active = s.active) (fun b _ => hk b) rfl h

theorem whenActive_active {s t : State} {k : BufSel → Host.Outcome State Fault Refusal}
    (hk : ∀ b, k b = .next t → t.active = s.active) (h : whenActive s k = .next t) : t.active = s.active :=
  whenActive_ensures (fun t => t.active = s.active) (fun b _ => hk b) rfl h

theorem acceptedNoop_active {s t : State} (h : acceptedNoop s = .next t) : t.active = s.active := by
  cases h; rfl

theorem tabOffset_active {n : Nat} {s t : State} (h : tabOffset n s = .next t) : t.active = s.active :=
  requireActive_active (fun b => by simp) h

@[simp] theorem State.retText_active (s : State) (b : BufSel) : (s.retText b).active = s.active := rfl

theorem basicPair_active {c1 c2 : BitVec 7} {s t : State} (h : basicPair c1 c2 s = .next t) :
    t.active = s.active := by
  refine whenActive_active (fun b hb => ?_) h
  cases hb
  split <;> simp

theorem westEu_active {idx : Nat} {s t : State} (h : westEu idx s = .next t) : t.active = s.active := by
  refine whenActive_active (fun b hb => ?_) h
  cases hb
  simp

theorem execPac_active {chan : Bool} {rs : BitVec 4} {ind : Bool} {a : BitVec 3} {ul : Bool} {s t : State}
    (h : execPac chan rs ind a ul s = .next t) : t.active = s.active := by
  refine whenActive_active (fun b hb => ?_) h
  split at hb
  · obtain ⟨-, rfl⟩ := pacInvalidRow_next hb
    rfl
  · cases hb
    simp

/-! ## The active buffer through an instruction and a step (R26) -/

@[simp] theorem Noted_active (s : State) (u : CapUnit) (rest : List PortInput) :
    (Noted s u rest).active = s.active := rfl

/-- An instruction leaves active the buffer it selects, or the one that was. -/
theorem exec_active {i : Instr} {s t : State} (h : exec i s = .next t) :
    t.active = i.selects.or s.active := by
  cases i with
  | rcl | rdc | ru2 | ru3 | ru4 => cases h; exact State.establish_active ..
  | eoc => cases h; rfl
  | edm | enm => cases h; exact State.clearBuffer_active ..
  | aof | aon | fon | tr | rtd | ctl17_20 | ctl17_24_27 | ctl17_28_2F | pad | uncl => exact acceptedNoop_active h
  | bs | der => exact requireActive_active (fun b => by simp [State.clearCells]) h
  | cr => exact requireActive_active (fun b => by simp [State.rollupShift]) h
  | to1 | to2 | to3 => exact tabOffset_active h
  | pac chan rs ind a ul => exact execPac_active (chan := chan) h
  | mid => exact whenActive_active (fun b hb => by cases hb; rfl) h
  | spc => exact whenActive_active (fun b hb => by cases hb; simp) h
  | we1 | we2 => exact westEu_active h
  | txtA | txtB => exact basicPair_active h

/-- A decode step leaves active as it was, or as its instruction selects. -/
theorem step_active {s t : State} {u : CapUnit} {rest : List PortInput} (hi : s.input = .unit u :: rest)
    (h : step s = .next t) :
    t.active = s.active ∨ t.active = (decodeStripped (strip u)).selects.or s.active := by
  obtain ⟨_, hi', -⟩ | ⟨_, _, -, -, rfl⟩ | ⟨_, _, hi', -, -, he⟩ := step_cases h
  · simp [hi] at hi'
  · exact Or.inl rfl
  · obtain ⟨rfl, rfl⟩ : u = _ ∧ rest = _ := by simpa [hi] using hi'
    have ha := exec_active he
    rw [Noted_active] at ha
    exact Or.inr ha

/-- Settles O26, by the active buffer after an instruction and after a step. -/
theorem activeSelectedByModeCommands : Obligations.ActiveSelectedByModeCommands := by
  refine ⟨fun i s t h => ?_, fun s t u rest hi h => ⟨fun hs => ?_, fun hs ht => ?_⟩, fun s => ⟨rfl, rfl⟩⟩
  · rw [exec_active h]
    cases i.selects <;> rfl
  · obtain he | he := step_active hi h
    · exact he ▸ hs
    · simp [he, hs]
  · obtain he | he := step_active hi h
    · exact absurd (he.trans hs) ht
    · simp [he, hs]

/-! ## The two buffers (R25) -/

/-- An edit of one buffer's cells replaces that buffer and no other. -/
theorem State.edit_buf_of_ne (s : State) {b b' : BufSel} (hne : b' ≠ b) (f : Writer → Writer) :
    (s.edit b f).buf b' = s.buf b' := by
  calc (s.edit b f).buf b'
    _ = (s.setBuf b { s.buf b with cells := (f ⟨(s.buf b).cells, s.out.changed⟩).cells }).buf b' := by
      cases b' <;> rfl
    _ = s.buf b' := by simp [hne]

/-- Settles O52: each primitive is a `setBuf`, which leaves the other buffer. -/
theorem buffersIndependent : Obligations.BuffersIndependent := by
  intro s b b' hne
  refine ⟨fun fb => ?_, State.edit_buf_of_ne s hne, fun r c v => State.edit_buf_of_ne s hne _, fun ds => ?_⟩
  · simp [hne]
  · simp [State.setDs, hne]

end Sys2Proof.Machine

end

/-! Proofs: one cell written and read (20_memory.md R52 to R54). -/

section

namespace Sys2Proof.Machine

/-! ## A write out of range (R52) -/

theorem Writer.write_of_not_inRange (w : Writer) {r c : Nat} (v : Cell) (h : ¬ inRange r c) : w.write r c v = w :=
  if_neg h

/-- An edit that gives the writer back gives the state back. -/
theorem State.edit_of_eq (s : State) (b : BufSel) {f : Writer → Writer}
    (hf : f ⟨(s.buf b).cells, s.out.changed⟩ = ⟨(s.buf b).cells, s.out.changed⟩) : s.edit b f = s := by
  unfold State.edit
  rw [hf]
  cases b <;> rfl

theorem State.cellWrite_of_not_inRange (s : State) (b : BufSel) {r c : Nat} (v : Cell) (h : ¬ inRange r c) :
    s.cellWrite b r c v = s :=
  s.edit_of_eq b (Writer.write_of_not_inRange _ v h)

/-! ## A cell write read back (R53, R54) -/

/-- In range the written cell reads back. -/
theorem State.cellWrite_cellRead_same (s : State) (b : BufSel) {r c : Nat} (v : Cell) (h : inRange r c) :
    (s.cellWrite b r c v).cellRead b r c = some v := by
  rw [State.cellWrite_cellRead, if_pos ⟨rfl, rfl, rfl, h⟩]

/-- Every other cell, of either buffer, reads as before. -/
theorem State.cellWrite_cellRead_of_ne (s : State) {b b' : BufSel} {r c r' c' : Nat} (v : Cell)
    (hne : (b', r', c') ≠ (b, r, c)) : (s.cellWrite b r c v).cellRead b' r' c' = s.cellRead b' r' c' := by
  rw [State.cellWrite_cellRead, if_neg]
  rintro ⟨rfl, rfl, rfl, -⟩
  exact hne rfl

/-- In range the write sets `changed` exactly when the cell differed. -/
theorem State.cellWrite_changed_of_inRange (s : State) (b : BufSel) {r c : Nat} (v : Cell) (h : inRange r c) :
    (s.cellWrite b r c v).out.changed = true ↔ s.out.changed = true ∨ s.cellRead b r c ≠ some v := by
  rw [State.cellWrite_changed, and_iff_right h]

/-- Settles O53: in range by read after write, out of range because the edit gives the state back. -/
theorem cellWriteThenRead : Obligations.CellWriteThenRead := by
  intro s b r c v
  refine ⟨fun h => ⟨?_, ?_⟩, fun b' r' c' hne => ?_, fun h => ⟨?_, ?_⟩⟩
  · exact s.cellWrite_cellRead_same b v h
  · exact s.cellWrite_changed_of_inRange b v h
  · exact s.cellWrite_cellRead_of_ne v hne
  · exact s.cellWrite_of_not_inRange b v h
  · exact s.cellRead_none b r c h

end Sys2Proof.Machine

end

/-! Proofs: odd parity of bytes and units, and the stripped unit (30_encoding.md R81 to R83). -/

section

namespace Sys2Proof

/-! ## Counting the 1 bits (R81) -/

/-- The 1 bits of a word are those below its top bit and the top bit. -/
theorem popcount_succ {w : Nat} (b : BitVec (w + 1)) :
    popcount b = popcount (b.extractLsb' 0 w) + (b.getLsbD w).toNat := by
  have low : (List.range w).filter (b.extractLsb' 0 w).getLsbD = (List.range w).filter b.getLsbD :=
    List.filter_congr fun i hi => by simp [List.mem_range.mp hi]
  unfold popcount
  rw [low, List.range_succ, List.filter_append, List.length_append, List.filter_singleton]
  cases b.getLsbD w <;> rfl

/-! ## Two words by their low bits and the top one -/

/-- Two words agree iff their top bits agree and the bits below do. -/
theorem eq_iff_low_top {w : Nat} (a b : BitVec (w + 1)) :
    a = b ↔ a.extractLsb' 0 w = b.extractLsb' 0 w ∧ a.getLsbD w = b.getLsbD w := by
  refine ⟨fun h => h ▸ ⟨rfl, rfl⟩, fun ⟨low, top⟩ => BitVec.eq_of_getLsbD_eq fun i hi => ?_⟩
  obtain hw | rfl := Nat.lt_succ_iff_lt_or_eq.mp hi
  · simpa [BitVec.getLsbD_extractLsb', hw] using congrArg (·.getLsbD i) low
  · exact top

/-! ## The parity ROM (R82) -/

/-- The ROM sets bit 7 exactly when the index has an even number of 1 bits. -/
theorem romParity_getLsbD_seven (v : BitVec 7) : (romParity v).getLsbD 7 = decide (popcount v % 2 = 0) := by
  unfold romParity
  split
  next even => simp [even]
  next odd => simp [odd]

/-- A byte passes parity iff it has an odd number of 1 bits (R81): the ROM's entry has the byte's low bits, so only
bit 7 is compared. -/
theorem byteParityOk_iff (b : Octet) : byteParityOk b = true ↔ popcount b % 2 = 1 := by
  calc byteParityOk b = true
    _ ↔ romParity (b.extractLsb' 0 7) = b := beq_iff_eq
    _ ↔ decide (popcount (b.extractLsb' 0 7) % 2 = 0) = b.getLsbD 7 := by
      rw [eq_iff_low_top, romParity_low, romParity_getLsbD_seven, and_iff_right rfl]
    _ ↔ popcount b % 2 = 1 := by
      rw [popcount_succ b]
      cases b.getLsbD 7
      · simp
      · simp; omega

theorem popcount_romParity_odd (v : BitVec 7) : popcount (romParity v) % 2 = 1 :=
  (byteParityOk_iff _).mp (byteParityOk_romParity v)

/-- Settles O4: a byte by `byteParityOk_iff`, the ROM because its entries pass parity, the six entries by evaluation. -/
theorem parityRomIsOdd : Obligations.ParityRomIsOdd := by
  refine ⟨byteParityOk_iff, fun v => ⟨romParity_low v, popcount_romParity_odd v⟩, ?_⟩
  decide

/-! ## The stripped unit and the decoder's check (R83) -/

theorem parityOk_iff (u : CapUnit) :
    parityOk u = true ↔ popcount (highByte u) % 2 = 1 ∧ popcount (lowByte u) % 2 = 1 := by
  rw [← byteParityOk_iff, ← byteParityOk_iff]
  exact Bool.and_eq_true_iff

/-- The strip mask holds every bit of a unit but 15 and 7. -/
theorem stripMask_getLsbD {k : Nat} (hk : k < 16) :
    (0x7F7F#16).getLsbD k = (decide (k ≠ 15) && decide (k ≠ 7)) := by
  revert k; decide

theorem strip_getLsbD (u : CapUnit) (k : Nat) :
    (strip u).getLsbD k = (u.getLsbD k && decide (k ≠ 15) && decide (k ≠ 7)) := by
  unfold strip
  rw [BitVec.getLsbD_and]
  by_cases hk : k < 16
  · rw [stripMask_getLsbD hk, Bool.and_assoc]
  · rw [BitVec.getLsbD_of_ge u k (by omega)]
    simp

/-- The decoder rejects a unit as a parity error iff it fails parity. -/
theorem decode_eq_parity_iff (u : CapUnit) : decode u = .error .parity ↔ parityOk u = false := by
  unfold decode
  cases parityOk u <;> simp

/-- Settles O5: the check by the parity of each byte, the stripped unit bit by bit, the decoder by its one test. -/
theorem validateAndStripUnit : Obligations.ValidateAndStripUnit := fun u =>
  ⟨parityOk_iff u, strip_getLsbD u, decode_eq_parity_iff u⟩

end Sys2Proof

end

/-! Proofs: the decode step around an instruction (40_decode_step.md R121 to R126). -/

section

namespace Sys2Proof

/-! ## The row a unit falls in (R101) -/

/-- A unit matches the row of the instruction it decodes to: each test of the decoder is its row's own, and the
default row has mask 0. -/
theorem decodeStripped_matches_row (s : CapUnit) :
    s &&& (decodeStripped s).rowMask = (decodeStripped s).rowMatch := by
  unfold decodeStripped
  iterate 30 refine iteInduction (motive := fun i : Instr => s &&& i.rowMask = i.rowMatch) id fun _ => ?_
  exact BitVec.and_zero

/-- A unit that matches a row matches every coarser mask the row's mask holds. -/
theorem and_eq_of_row_match {w : Nat} {s m v m' : BitVec w} (h : s &&& m = v) (hm : m &&& m' = m') :
    s &&& m' = v &&& m' := by
  rw [← h, BitVec.and_assoc, hm]

/-- The control rows lie in the 0x14 group or in the 0x17 group (R86). -/
theorem Instr.row_of_control {i : Instr} (h : i.unitClass = .control) :
    (i.rowMask &&& 0x7670#16 = 0x7670#16 ∧ i.rowMatch &&& 0x7670#16 = 0x1420#16)
      ∨ (i.rowMask &&& 0x7770#16 = 0x7770#16 ∧ i.rowMatch &&& 0x7770#16 = 0x1720#16) := by
  cases i with
  | rcl | bs | aof | aon | der | ru2 | ru3 | ru4 | fon | rdc | tr | rtd | edm | cr | enm | eoc =>
    left; rw [Instr.rowMask, Instr.rowMatch]; decide
  | ctl17_20 | to1 | to2 | to3 | ctl17_24_27 | ctl17_28_2F => right; rw [Instr.rowMask, Instr.rowMatch]; decide
  | pac | mid | spc | we1 | we2 | txtA | txtB | pad | uncl => cases h

/-- Only a CONTROL unit decodes to a control command. -/
theorem classify_of_decodeStripped_control {s : CapUnit} (h : (decodeStripped s).unitClass = .control) :
    classify s = .control := by
  have row := decodeStripped_matches_row s
  have hc : isControl s = true := by
    unfold isControl
    obtain ⟨hm, hv⟩ | ⟨hm, hv⟩ := Instr.row_of_control h
    · simp [(and_eq_of_row_match row hm).trans hv]
    · simp [(and_eq_of_row_match row hm).trans hv]
  unfold classify
  rw [if_pos hc]

end Sys2Proof

namespace Sys2Proof.Machine

/-! ## A decode step by its first checks (R121 to R124) -/

/-- Past the first checks a decode step is its instruction on the state with the unit recorded. -/
theorem step_eq_exec {s : State} {u : CapUnit} {rest : List PortInput} (hi : s.input = .unit u :: rest)
    (hp : parityOk u = true) (hd : ¬ Duplicate s u) : step s = exec (decodeStripped (strip u)) (Noted s u rest) := by
  have hd' : s.beginStep.isDuplicate (strip u) = false :=
    Bool.eq_false_iff.mpr fun x => hd ((State.isDuplicate_iff s u).mp x)
  unfold step firstChecks decode
  simp [hi, hp, hd', State.record_beginStep]

/-- A unit that fails parity, or repeats the last one, is dropped. -/
theorem step_eq_dropped {s : State} {u : CapUnit} {rest : List PortInput} (hi : s.input = .unit u :: rest)
    (h : parityOk u = false ∨ Duplicate s u) : step s = .next (Dropped s rest) := by
  have hb : s.beginStep = Dropped s rest := by simp [State.beginStep, Dropped, hi]
  have hf : firstChecks u s.beginStep = .drop := by
    unfold firstChecks decode
    obtain hp | hd := h
    · simp [hp]
    · have hd' : s.beginStep.isDuplicate (strip u) = true := (State.isDuplicate_iff s u).mpr hd
      cases parityOk u
      · rfl
      · simp [hd']
  unfold step
  simp only [hi, hf]
  rw [hb]

/-- Only a CONTROL or a SPECIAL unit is a duplicate (R123). -/
theorem not_duplicate_of_class {s : State} {u : CapUnit} (hc : classify (strip u) ≠ .control)
    (hs : classify (strip u) ≠ .special) : ¬ Duplicate s u := fun hd => hd.1.elim hc hs

theorem Noted_of_pad {s : State} {u : CapUnit} {rest : List PortInput} (h : strip u = 0#16) :
    Noted s u rest = Dropped s rest := by simp [Noted, Dropped, h]

theorem Noted_of_ne_zero {s : State} {u : CapUnit} {rest : List PortInput} (h : strip u ≠ 0#16) :
    Noted s u rest = { Dropped s rest with last := strip u } := by simp [Noted, Dropped, h]

@[simp] theorem Dropped_ret_false (s : State) (rest : List PortInput) :
    (Dropped s rest).ret false = Dropped s rest := rfl

/-! ## What no instruction writes (R40) -/

/-- The fields that are the decode step's and the host's alone: the last unit, the count, the parameters, the input. -/
def State.stepFields (s : State) : CapUnit × Nat × Params × List PortInput := (s.last, s.n, s.params, s.input)

theorem requireActive_stepFields {s t : State} {k : BufSel → State} (hk : ∀ b, (k b).stepFields = s.stepFields)
    (h : requireActive s k = .next t) : t.stepFields = s.stepFields :=
  requireActive_ensures (fun t => t.stepFields = s.stepFields) (fun b _ => hk b) rfl h

theorem whenActive_stepFields {s t : State} {k : BufSel → Host.Outcome State Fault Refusal}
    (hk : ∀ b, k b = .next t → t.stepFields = s.stepFields) (h : whenActive s k = .next t) :
    t.stepFields = s.stepFields :=
  whenActive_ensures (fun t => t.stepFields = s.stepFields) (fun b _ => hk b) rfl h

theorem execPac_stepFields {chan : Bool} {rs : BitVec 4} {ind : Bool} {a : BitVec 3} {ul : Bool} {s t : State}
    (h : execPac chan rs ind a ul s = .next t) : t.stepFields = s.stepFields := by
  refine whenActive_stepFields (fun b hb => ?_) h
  split at hb
  next => obtain ⟨-, rfl⟩ := pacInvalidRow_next hb; rfl
  next => cases hb; simp [State.stepFields]

theorem basicPair_stepFields {c1 c2 : BitVec 7} {s t : State} (h : basicPair c1 c2 s = .next t) :
    t.stepFields = s.stepFields := by
  refine whenActive_stepFields (fun b hb => ?_) h
  cases hb
  split <;> simp [State.stepFields, State.retText]

/-- An instruction leaves the decode step's fields. -/
theorem exec_stepFields {i : Instr} {s t : State} (h : exec i s = .next t) : t.stepFields = s.stepFields := by
  cases i with
  | rcl | rdc | ru2 | ru3 | ru4 | edm | enm | eoc => cases h; simp [State.stepFields]
  | aof | aon | fon | tr | rtd | ctl17_20 | ctl17_24_27 | ctl17_28_2F | pad | uncl => cases h; rfl
  | bs => exact requireActive_stepFields (fun b => by simp [State.stepFields]) h
  | der => exact requireActive_stepFields (fun b => by simp [State.stepFields, State.clearCells]) h
  | cr => exact requireActive_stepFields (fun b => by simp [State.stepFields, State.rollupShift]) h
  | to1 | to2 | to3 => exact requireActive_stepFields (fun b => by simp [State.stepFields]) h
  | pac chan rs ind a ul => exact execPac_stepFields (chan := chan) h
  | mid => exact whenActive_stepFields (fun b hb => by cases hb; rfl) h
  | spc | we1 | we2 => exact whenActive_stepFields (fun b hb => by cases hb; simp [State.stepFields, State.retText]) h
  | txtA | txtB => exact basicPair_stepFields h

/-! ## Before a mode is established (R126) -/

/-- With no active buffer an instruction that is no control command returns (false, 0). -/
theorem exec_of_no_mode {i : Instr} {s : State} (ha : s.active = none) (hc : i.unitClass ≠ .control) :
    exec i s = .next (s.ret false) := by
  cases i with
  | pad | uncl => rfl
  | pac | mid | spc | we1 | we2 | txtA | txtB => exact whenActive_none s _ ha
  | rcl | bs | aof | aon | der | ru2 | ru3 | ru4 | fon | rdc | tr | rtd | edm | cr | enm | eoc => exact absurd rfl hc
  | ctl17_20 | to1 | to2 | to3 | ctl17_24_27 | ctl17_28_2F => exact absurd rfl hc

/-! ## The statements -/

/-- Settles O14: the step records the unit and its instruction leaves the record. -/
theorem stepRecordsUnit : Obligations.StepRecordsUnit := by
  intro s t u rest hi hp h0 hd h
  rw [step_eq_exec hi hp hd, Noted_of_ne_zero h0] at h
  exact congrArg Prod.fst (exec_stepFields h)

/-- Settles O15: the unit decodes to no control command, so the instruction returns (false, 0) on the recorded state. -/
theorem noModeDrops : Obligations.NoModeDrops := by
  intro s u rest ha hi hp h0 hd hc
  have hi' : (decodeStripped (strip u)).unitClass ≠ .control := mt classify_of_decodeStripped_control hc
  have ha' : (Noted s u rest).active = none := ha
  rw [step_eq_exec hi hp hd, exec_of_no_mode ha' hi', Noted_of_ne_zero h0]
  rfl

/-- Settles O11: an even byte is a parity failure, and such a unit is dropped. -/
theorem parityFailureDrops : Obligations.ParityFailureDrops := by
  intro s u rest hi heven
  have hp : parityOk u = false := by
    rw [← Bool.not_eq_true, parityOk_iff]
    omega
  exact step_eq_dropped hi (Or.inl hp)

/-- Settles O12: padding is no duplicate, is not recorded, and its instruction does nothing. -/
theorem paddingDrops : Obligations.PaddingDrops := by
  intro s u rest hi hp h0
  have hd : ¬ Duplicate s u := not_duplicate_of_class (by rw [h0]; decide) (by rw [h0]; decide)
  calc step s = exec (decodeStripped (strip u)) (Noted s u rest) := step_eq_exec hi hp hd
    _ = exec .pad (Dropped s rest) := by rw [Noted_of_pad h0, h0]; rfl
    _ = .next (Dropped s rest) := rfl

/-- Settles O13: a duplicate by the drop, and the five other classes because none of them is a duplicate or padding. -/
theorem duplicateDrops : Obligations.DuplicateDrops := by
  intro s u rest hi hp
  refine ⟨fun hc hl => step_eq_dropped hi (Or.inr ⟨hc, hl⟩), fun hc => ?_⟩
  have hd : ¬ Duplicate s u :=
    not_duplicate_of_class (fun h => by simp [h] at hc) (fun h => by simp [h] at hc)
  have h0 : strip u ≠ 0#16 := fun h => by
    rw [h] at hc
    exact absurd hc (by decide)
  rw [step_eq_exec hi hp hd, Noted_of_ne_zero h0]
  rfl

end Sys2Proof.Machine

end

/-! Proofs: the readiness of a text unit (43_text.md R202). -/

section

namespace Sys2Proof.Machine

/-! ## What `retText` returns -/

@[simp] theorem State.retText_buf (s : State) (b b' : BufSel) : (s.retText b).buf b' = s.buf b' :=
  State.ret_buf s _ b'

theorem State.retText_ready (s : State) (b : BufSel) :
    (s.retText b).out.ready = true ↔ 0 < (s.buf b).ds.rollupDepth := decide_eq_true_iff

/-! ## How every text unit completes -/

/-- The outcome is `retText` on a state that keeps from `s` the DisplayState of buffer `b` and the active buffer. -/
def ReturnsText (s : State) (b : BufSel) (o : Host.Outcome State Fault Refusal) : Prop :=
  ∃ w : State, o = .next (w.retText b) ∧ (w.buf b).ds = (s.buf b).ds ∧ w.active = s.active

theorem basicPair_returnsText {s : State} {b : BufSel} (c1 c2 : BitVec 7) (hb : s.active = some b) :
    ReturnsText s b (basicPair c1 c2 s) := by
  refine ⟨_, whenActive_some s _ b hb, ?_⟩
  split
  next => simp
  next => simp

theorem westEu_returnsText {s : State} {b : BufSel} (idx : Nat) (hb : s.active = some b) :
    ReturnsText s b (westEu idx s) :=
  ⟨_, whenActive_some s _ b hb, by simp⟩

theorem execSpc_returnsText {s : State} {b : BufSel} (chan : Bool) (k : BitVec 4) (hb : s.active = some b) :
    ReturnsText s b (execSpc chan k s) :=
  ⟨_, whenActive_some s _ b hb, by simp⟩

/-- A text unit with an active buffer writes, and then returns that buffer's readiness. -/
theorem exec_returnsText {i : Instr} {s : State} {b : BufSel} (ht : i.isText = true) (hb : s.active = some b) :
    ReturnsText s b (exec i s) := by
  cases i with
  | txtA c1 c2 | txtB c1 c2 => exact basicPair_returnsText c1 c2 hb
  | spc chan k => exact execSpc_returnsText chan k hb
  | we1 | we2 => exact westEu_returnsText _ hb
  | rcl | bs | aof | aon | der | ru2 | ru3 | ru4 | fon | rdc | tr | rtd | edm | cr | enm | eoc => cases ht
  | ctl17_20 | to1 | to2 | to3 | ctl17_24_27 | ctl17_28_2F | pac | mid | pad | uncl => cases ht

/-- Settles O47: the readiness is read after the writes, which keep the DisplayState and so the depth. -/
theorem textReadiness : Obligations.TextReadiness := by
  intro i s b ht hb
  obtain ⟨w, he, hds, ha⟩ := exec_returnsText ht hb
  refine ⟨w.retText b, he, ?_, ?_, ha.trans hb⟩
  · rw [State.retText_buf]
    exact w.retText_ready b
  · rw [State.retText_buf, hds]

end Sys2Proof.Machine

end

/-! Proofs: the parameters through a step (70_reset_and_hazards.md R291). -/

section

namespace Sys2Proof.Machine

@[simp] theorem Dropped_params (s : State) (rest : List PortInput) : (Dropped s rest).params = s.params := rfl

@[simp] theorem Noted_params (s : State) (u : CapUnit) (rest : List PortInput) :
    (Noted s u rest).params = s.params := rfl

/-- An instruction leaves the parameters, which are among the decode step's fields. -/
theorem exec_params {i : Instr} {s t : State} (h : exec i s = .next t) : t.params = s.params :=
  congrArg (fun (_, _, p, _) => p) (exec_stepFields h)

/-- Settles O22: a reset keeps the parameters, a dropped unit leaves them, and so does an executed one. -/
theorem paramsNeverWritten : Obligations.ParamsNeverWritten := by
  intro s t h
  obtain ⟨_, -, rfl⟩ | ⟨_, rest, -, -, rfl⟩ | ⟨u, rest, -, -, -, he⟩ := step_cases h
  · exact s.takeReset_params
  · exact Dropped_params s rest
  · exact (exec_params he).trans (Noted_params s u rest)

end Sys2Proof.Machine

end

/-! Proofs: the decoder and the encoder undo each other (30_encoding.md sections 3, 6 and 8). -/

section

namespace Sys2Proof

/-! ## Matches of one unit under two masks -/

/-- A match rules out a match that wants another value of a bit both masks hold. -/
theorem and_ne_of_conflict {w : Nat} {s m v m' v' : BitVec w} (h : s &&& m = v) (hc : v &&& m' ≠ v' &&& m) :
    s &&& m' ≠ v' := by
  rintro rfl
  refine hc ?_
  rw [← h, BitVec.and_assoc, BitVec.and_comm m, ← BitVec.and_assoc]

/-- No match under a coarse mask, no match under a finer one. -/
theorem and_ne_of_coarse {w : Nat} {s m v m' v' : BitVec w} (h : s &&& m' ≠ v') (hm : m &&& m' = m')
    (hv : v &&& m' = v') : s &&& m ≠ v := fun e => h ((and_eq_of_row_match e hm).trans hv)

/-! ## The class of a unit by its predicate (R86): the masks of an earlier class conflict with those of a later one -/

theorem isPreamble_iff (s : CapUnit) : isPreamble s = true ↔ s &&& 0x7040#16 = 0x1040#16 := beq_iff_eq
theorem isMidRow_iff (s : CapUnit) : isMidRow s = true ↔ s &&& 0x7770#16 = 0x1120#16 := beq_iff_eq
theorem isSpecial_iff (s : CapUnit) : isSpecial s = true ↔ s &&& 0x7770#16 = 0x1130#16 := beq_iff_eq
theorem isWestEu_iff (s : CapUnit) : isWestEu s = true ↔ s &&& 0x7660#16 = 0x1220#16 := beq_iff_eq
theorem isBasic_iff (s : CapUnit) : isBasic s = true ↔ s &&& 0x6000#16 ≠ 0#16 := bne_iff_ne
theorem isControl_iff (s : CapUnit) :
    isControl s = true ↔ s &&& 0x7670#16 = 0x1420#16 ∨ s &&& 0x7770#16 = 0x1720#16 := by simp [isControl]

theorem classify_of_isControl {s : CapUnit} (h : isControl s = true) : classify s = .control := if_pos h

theorem classify_of_isPreamble {s : CapUnit} (h : isPreamble s = true) : classify s = .pac := by
  have hm := (isPreamble_iff s).mp h
  simp [classify, h, isControl, and_ne_of_conflict hm]

theorem classify_of_isMidRow {s : CapUnit} (h : isMidRow s = true) : classify s = .midrow := by
  have hm := (isMidRow_iff s).mp h
  simp [classify, h, isControl, isPreamble, and_ne_of_conflict hm]

theorem classify_of_isSpecial {s : CapUnit} (h : isSpecial s = true) : classify s = .special := by
  have hm := (isSpecial_iff s).mp h
  simp [classify, h, isControl, isPreamble, isMidRow, and_ne_of_conflict hm]

theorem classify_of_isWestEu {s : CapUnit} (h : isWestEu s = true) : classify s = .we := by
  have hm := (isWestEu_iff s).mp h
  simp [classify, h, isControl, isPreamble, isMidRow, isSpecial, and_ne_of_conflict hm]

theorem classify_of_isBasic {s : CapUnit} (h : isBasic s = true) : classify s = .basic := by
  have hm := (isBasic_iff s).mp h
  simp [classify, h, isControl, isPreamble, isMidRow, isSpecial, isWestEu, and_ne_of_coarse hm]

/-- What makes a unit of a class: its predicate, or for the default class that no other class has it. -/
def UnitClass.predicate : UnitClass → CapUnit → Bool
  | .control => isControl
  | .pac => isPreamble
  | .midrow => isMidRow
  | .special => isSpecial
  | .we => isWestEu
  | .basic => isBasic
  | .pad => fun s => s == 0#16
  | .unclassified => fun s =>
    !isControl s && !isPreamble s && !isMidRow s && !isSpecial s && !isWestEu s && !isBasic s && s != 0#16

theorem predicate_classify (s : CapUnit) : (classify s).predicate s = true := by
  unfold classify
  split_ifs with h1 h2 h3 h4 h5 h6 h7
  · exact h1
  · exact h2
  · exact h3
  · exact h4
  · exact h5
  · exact h6
  · exact h7
  · simpa [UnitClass.predicate, h1, h2, h3, h4, h5, h6] using h7

/-- The predicates are disjoint, so that the order they are tried in does not matter. -/
theorem classify_eq_iff (s : CapUnit) (c : UnitClass) : classify s = c ↔ c.predicate s = true := by
  refine ⟨fun h => h ▸ predicate_classify s, fun h => ?_⟩
  cases c with
  | control => exact classify_of_isControl h
  | pac => exact classify_of_isPreamble h
  | midrow => exact classify_of_isMidRow h
  | special => exact classify_of_isSpecial h
  | we => exact classify_of_isWestEu h
  | basic => exact classify_of_isBasic h
  | pad => rw [beq_iff_eq.mp h]; decide
  | unclassified =>
    simp only [UnitClass.predicate, Bool.and_eq_true, Bool.not_eq_true', bne_iff_ne] at h
    simp [classify, h]

/-- Settles O7: a unit has one class. -/
theorem classPredicatesDisjoint : Obligations.ClassPredicatesDisjoint := by
  intro s
  have hp : ∀ c : UnitClass, c.predicate s = (classify s == c) := fun c =>
    Bool.eq_iff_iff.mpr ((classify_eq_iff s c).symm.trans beq_iff_eq.symm)
  change ([UnitClass.control.predicate s, UnitClass.pac.predicate s, UnitClass.midrow.predicate s,
    UnitClass.special.predicate s, UnitClass.we.predicate s, UnitClass.basic.predicate s].filter id).length ≤ 1
  simp only [hp]
  cases classify s <;> decide

/-! ## A unit under a mask of its fields -/

theorem and_flag (s : CapUnit) (p : Nat) : s &&& (1#16 <<< p) = flagAt (s.getLsbD p) p := BitVec.and_twoPow s p

theorem and_bit (s : CapUnit) (p : Nat) : s &&& (1#16 <<< p) = 0#16 ∨ s &&& (1#16 <<< p) = 1#16 <<< p := by
  rw [and_flag]
  cases s.getLsbD p
  · exact Or.inl rfl
  · exact Or.inr rfl

/-- The field of `n` bits from bit `p` on. -/
theorem and_field (s : CapUnit) (p n : Nat) :
    s &&& ((BitVec.allOnes n).setWidth 16 <<< p) = (s.extractLsb' p n).setWidth 16 <<< p := by
  refine BitVec.eq_of_getLsbD_eq fun i hi => ?_
  by_cases hp : p ≤ i
  · simp [hi, show ¬ i < p by omega, show p + (i - p) = i by omega, Bool.and_comm]
  · simp [show i < p by omega]

/-! ## What each row's match says of the unit: the encoding of the instruction decoded (R101, R103) -/

theorem control14_of_row {s : CapUnit} {cmd : BitVec 4} (hs : strip s = s)
    (h : s &&& 0x767F#16 = 0x1420#16 ||| cmd.setWidth 16) : control14 (s.getLsbD 11) (s.getLsbD 8) cmd = s := by
  unfold control14
  rw [← and_flag, ← and_flag, ← h, ← BitVec.and_or_distrib_left, ← BitVec.and_or_distrib_left]
  exact hs

theorem control17_of_row {s : CapUnit} {k : BitVec 4} (hs : strip s = s)
    (h : s &&& 0x777F#16 = 0x1720#16 ||| k.setWidth 16) : control17 (s.getLsbD 11) k = s := by
  unfold control17
  rw [← and_flag, ← h, ← BitVec.and_or_distrib_left]
  exact hs

/-- A unit of a row whose one field is the low `n` bits. -/
theorem low_field_of_row {s m v : CapUnit} {n : Nat} (hs : strip s = s) (h : s &&& m = v)
    (hm : m ||| (BitVec.allOnes n).setWidth 16 <<< 0 ||| 1#16 <<< 11 = 0x7F7F#16) :
    v ||| (s.extractLsb' 0 n).setWidth 16 ||| flagAt (s.getLsbD 11) 11 = s := by
  rw [← BitVec.shiftLeft_zero ((s.extractLsb' 0 n).setWidth 16), ← and_flag, ← and_field, ← h,
    ← BitVec.and_or_distrib_left, ← BitVec.and_or_distrib_left, hm]
  exact hs

theorem stripped_ctl17_24_27 {s : CapUnit} (hs : strip s = s) (h : s &&& 0x777C#16 = 0x1724#16) :
    (Instr.ctl17_24_27 (s.getLsbD 11) (s.extractLsb' 0 2)).stripped = s := by
  have hk : ∀ k : BitVec 2, 0x1720#16 ||| (0x4#4 ||| k.setWidth 4).setWidth 16 = 0x1724#16 ||| k.setWidth 16 := by
    decide
  refine Eq.trans ?_ (low_field_of_row hs h (n := 2) (by decide))
  rw [← hk]; rfl

theorem stripped_ctl17_28_2F {s : CapUnit} (hs : strip s = s) (h : s &&& 0x7778#16 = 0x1728#16) :
    (Instr.ctl17_28_2F (s.getLsbD 11) (s.extractLsb' 0 3)).stripped = s := by
  have hk : ∀ k : BitVec 3, 0x1720#16 ||| (0x8#4 ||| k.setWidth 4).setWidth 16 = 0x1728#16 ||| k.setWidth 16 := by
    decide
  refine Eq.trans ?_ (low_field_of_row hs h (n := 3) (by decide))
  rw [← hk]; rfl

theorem stripped_mid {s : CapUnit} (hs : strip s = s) (h : s &&& 0x7770#16 = 0x1120#16) :
    (Instr.mid (s.getLsbD 11) (s.extractLsb' 1 3) (s.getLsbD 0)).stripped = s := by
  simp only [Instr.stripped]
  rw [← and_flag, ← and_flag, ← and_field, ← h, ← BitVec.and_or_distrib_left, ← BitVec.and_or_distrib_left,
    ← BitVec.and_or_distrib_left]
  exact hs

/-- The row select's upper three bits lie in the high byte, its lowest in the low byte (R93). -/
theorem rowSelect_high : ∀ (hi : BitVec 3) (lo : BitVec 1), (hi ++ lo).setWidth 16 >>> 1 = hi.setWidth 16 := by decide
theorem rowSelect_low : ∀ (hi : BitVec 3) (lo : BitVec 1), (hi ++ lo).getLsbD 0 = lo.getLsbD 0 := by decide

theorem stripped_pac {s : CapUnit} (hs : strip s = s) (h : s &&& 0x7040#16 = 0x1040#16) :
    (Instr.pac (s.getLsbD 11) (rowSelectField s) (s.getLsbD 4) (s.extractLsb' 1 3) (s.getLsbD 0)).stripped = s := by
  have h12 : s &&& 0x7000#16 = 0x10#16 <<< 8 := and_eq_of_row_match h (by decide)
  have h6 : s &&& 0x0040#16 = 0x40#16 := and_eq_of_row_match h (by decide)
  have h5 : (rowSelectField s).getLsbD 0 = s.getLsbD 5 := (rowSelect_low _ _).trans (by simp)
  have h8 : (rowSelectField s).setWidth 16 >>> 1 = (s.extractLsb' 8 3).setWidth 16 := rowSelect_high _ _
  simp only [Instr.stripped]
  rw [h8, h5, BitVec.shiftLeft_or_distrib, ← h12, ← h6, ← and_field, ← and_field, ← and_flag, ← and_flag, ← and_flag,
    ← and_flag]
  simp only [← BitVec.and_or_distrib_left]
  exact hs

/-- A stripped unit is its two groups of seven bits. -/
theorem textPair_of_stripped {s : CapUnit} (hs : strip s = s) :
    textPair (s.extractLsb' 8 7) (s.extractLsb' 0 7) = s := by
  unfold textPair
  rw [← BitVec.shiftLeft_zero ((s.extractLsb' 0 7).setWidth 16), ← and_field, ← and_field, ← BitVec.and_or_distrib_left]
  exact hs

theorem stripped_ite {p : Prop} [Decidable p] {i j : Instr} {s : CapUnit} (hi : p → i.stripped = s)
    (hj : ¬ p → j.stripped = s) : (if p then i else j).stripped = s :=
  iteInduction (motive := fun i : Instr => i.stripped = s) hi hj

/-- A stripped unit is the encoding of the instruction it decodes to, whichever row it falls in. -/
theorem stripped_decodeStripped {s : CapUnit} (hs : strip s = s) : (decodeStripped s).stripped = s := by
  unfold decodeStripped
  iterate 16 refine stripped_ite (fun h => control14_of_row hs h) fun _ => ?_
  iterate 4 refine stripped_ite (fun h => control17_of_row hs h) fun _ => ?_
  refine stripped_ite (stripped_ctl17_24_27 hs) fun _ => ?_
  refine stripped_ite (stripped_ctl17_28_2F hs) fun _ => ?_
  refine stripped_ite (stripped_pac hs) fun _ => ?_
  refine stripped_ite (stripped_mid hs) fun _ => ?_
  iterate 3 refine stripped_ite (fun h => low_field_of_row hs h (by decide)) fun _ => ?_
  iterate 2 refine stripped_ite (fun _ => textPair_of_stripped hs) fun _ => ?_
  refine stripped_ite (fun h => ?_) fun _ => rfl
  exact (hs.symm.trans h).symm

/-! ## The class of the instruction decoded (R86, R101) -/

theorem decodeStripped_control14_class : ∀ (chan fld : Bool) (cmd : BitVec 4),
    (decodeStripped (control14 chan fld cmd)).unitClass = .control := by decide
theorem decodeStripped_control17_class : ∀ (chan : Bool) (k : BitVec 4),
    (decodeStripped (control17 chan k)).unitClass = .control := by decide

/-- A unit of the 0x14 group is a command with its two unread bits. -/
theorem control14_of_group {s : CapUnit} (hs : strip s = s) (h : s &&& 0x7670#16 = 0x1420#16) :
    control14 (s.getLsbD 11) (s.getLsbD 8) (s.extractLsb' 0 4) = s := by
  refine control14_of_row hs ?_
  rw [← h, ← BitVec.shiftLeft_zero ((s.extractLsb' 0 4).setWidth 16), ← and_field, ← BitVec.and_or_distrib_left]
  rfl

theorem control17_of_group {s : CapUnit} (hs : strip s = s) (h : s &&& 0x7770#16 = 0x1720#16) :
    control17 (s.getLsbD 11) (s.extractLsb' 0 4) = s := by
  refine control17_of_row hs ?_
  rw [← h, ← BitVec.shiftLeft_zero ((s.extractLsb' 0 4).setWidth 16), ← and_field, ← BitVec.and_or_distrib_left]
  rfl

theorem unitClass_of_isControl {s : CapUnit} (hs : strip s = s) (h : isControl s = true) :
    (decodeStripped s).unitClass = .control := by
  obtain h | h := (isControl_iff s).mp h
  · rw [← control14_of_group hs h]
    exact decodeStripped_control14_class ..
  · rw [← control17_of_group hs h]
    exact decodeStripped_control17_class ..

theorem decodeStripped_of_isPreamble {s : CapUnit} (h : isPreamble s = true) :
    decodeStripped s =
      .pac (s.getLsbD 11) (rowSelectField s) (s.getLsbD 4) (s.extractLsb' 1 3) (s.getLsbD 0) := by
  have hm := (isPreamble_iff s).mp h
  simp [decodeStripped, hm, and_ne_of_conflict hm]

theorem decodeStripped_of_isMidRow {s : CapUnit} (h : isMidRow s = true) :
    decodeStripped s = .mid (s.getLsbD 11) (s.extractLsb' 1 3) (s.getLsbD 0) := by
  have hm := (isMidRow_iff s).mp h
  simp [decodeStripped, hm, and_ne_of_conflict hm]

theorem decodeStripped_of_isSpecial {s : CapUnit} (h : isSpecial s = true) :
    decodeStripped s = .spc (s.getLsbD 11) (s.extractLsb' 0 4) := by
  have hm := (isSpecial_iff s).mp h
  simp [decodeStripped, hm, and_ne_of_conflict hm]

/-- The two rows of the class differ in bit 8. -/
theorem unitClass_of_isWestEu {s : CapUnit} (h : isWestEu s = true) : (decodeStripped s).unitClass = .we := by
  have hm := (isWestEu_iff s).mp h
  have hor : s &&& 0x7760#16 = 0x1220#16 ||| s &&& (1#16 <<< 8) := by rw [← hm, ← BitVec.and_or_distrib_left]; rfl
  obtain h8 | h8 := and_bit s 8
  · rw [h8] at hor
    simp [decodeStripped, hor, and_ne_of_conflict hm, Instr.unitClass]
  · rw [h8] at hor
    simp [decodeStripped, hor, and_ne_of_conflict hm, Instr.unitClass]

theorem decodeStripped_of_bit13 {s : CapUnit} (h : s &&& 0x2000#16 = 0x2000#16) :
    decodeStripped s = .txtA (s.extractLsb' 8 7) (s.extractLsb' 0 7) := by
  simp [decodeStripped, h, and_ne_of_conflict h]

theorem decodeStripped_of_bit14 {s : CapUnit} (h : s &&& 0x6000#16 = 0x4000#16) :
    decodeStripped s = .txtB (s.extractLsb' 8 7) (s.extractLsb' 0 7) := by
  simp [decodeStripped, h, and_ne_of_conflict h]

theorem unitClass_of_isBasic {s : CapUnit} (h : isBasic s = true) : (decodeStripped s).unitClass = .basic := by
  obtain h13 | h13 := and_bit s 13
  · have h14 : s &&& 0x6000#16 = 0x4000#16 := by
      have hor : s &&& 0x6000#16 = s &&& (1#16 <<< 14) := by
        rw [show (0x6000#16) = 1#16 <<< 14 ||| 1#16 <<< 13 from rfl, BitVec.and_or_distrib_left, h13, BitVec.or_zero]
      exact hor.trans ((and_bit s 14).resolve_left fun h0 => (isBasic_iff s).mp h (hor.trans h0))
    rw [decodeStripped_of_bit14 h14]; rfl
  · rw [decodeStripped_of_bit13 h13]; rfl

/-- A unit of no other class falls through every row. -/
theorem decodeStripped_of_unclassified {s : CapUnit} (hs : strip s = s)
    (h : UnitClass.unclassified.predicate s = true) : decodeStripped s = .uncl s := by
  simp only [UnitClass.predicate, Bool.and_eq_true, Bool.not_eq_true', bne_iff_ne, isControl, isPreamble, isMidRow,
    isSpecial, isWestEu, isBasic, Bool.or_eq_false_iff, beq_eq_false_iff_ne, bne_eq_false_iff_eq] at h
  obtain ⟨⟨⟨⟨⟨⟨⟨h14, h17⟩, hp⟩, hm⟩, hsp⟩, hw⟩, hb⟩, h0⟩ := h
  have h7F : s &&& 0x7F7F#16 ≠ 0#16 := fun e => h0 (hs.symm.trans e)
  simp [decodeStripped, h7F, and_ne_of_coarse h14, and_ne_of_coarse h17, and_ne_of_coarse hp, and_ne_of_coarse hm,
    and_ne_of_coarse hsp, and_ne_of_coarse hw, and_ne_of_conflict hb]

/-- The instruction decoded is of the unit's class. -/
theorem unitClass_decodeStripped {s : CapUnit} (hs : strip s = s) : (decodeStripped s).unitClass = classify s := by
  have h := predicate_classify s
  generalize classify s = c at h
  cases c with
  | control => exact unitClass_of_isControl hs h
  | pac => rw [decodeStripped_of_isPreamble h]; rfl
  | midrow => rw [decodeStripped_of_isMidRow h]; rfl
  | special => rw [decodeStripped_of_isSpecial h]; rfl
  | we => exact unitClass_of_isWestEu h
  | basic => exact unitClass_of_isBasic h
  | pad => rw [beq_iff_eq.mp h]; rfl
  | unclassified => rw [decodeStripped_of_unclassified hs h]; rfl

/-! ## The listed unclassified set (R89), byte by byte -/

theorem and_unit_iff (s : CapUnit) (mh ml vh vl : Octet) :
    s &&& unitOfBytes mh ml = unitOfBytes vh vl ↔ highByte s &&& mh = vh ∧ lowByte s &&& ml = vl := by
  rw [← mask_bytes, unitOfBytes_highByte_lowByte]

/-- A byte without its parity bit is below 0x80. -/
theorem bytes_lt_of_stripped {s : CapUnit} (hs : strip s = s) :
    (highByte s).toNat < 0x80 ∧ (lowByte s).toNat < 0x80 := by
  have key : ∀ b : Octet, b &&& 0x7F#8 = b → b.toNat < 0x80 := by decide
  have h : s &&& unitOfBytes 0x7F#8 0x7F#8 = unitOfBytes (highByte s) (lowByte s) := by
    rw [unitOfBytes_highByte_lowByte]; exact hs
  rw [and_unit_iff] at h
  exact ⟨key _ h.1, key _ h.2⟩

theorem eq_zero_iff_bytes (s : CapUnit) : s = 0#16 ↔ (highByte s).toNat = 0 ∧ (lowByte s).toNat = 0 := by
  refine ⟨fun h => h ▸ by decide, fun ⟨hh, hl⟩ => ?_⟩
  rw [← unitOfBytes_highByte_lowByte s, BitVec.eq_of_toNat_eq (y := 0#8) hh, BitVec.eq_of_toNat_eq (y := 0#8) hl]
  rfl

/-- The values of a high byte that each class mask lets through. -/
theorem highByte_masks : ∀ h : Octet, h.toNat < 0x80 →
    (h &&& 0x76#8 = 0x14#8 ↔ h.toNat = 0x14 ∨ h.toNat = 0x15 ∨ h.toNat = 0x1C ∨ h.toNat = 0x1D)
    ∧ (h &&& 0x77#8 = 0x17#8 ↔ h.toNat = 0x17 ∨ h.toNat = 0x1F)
    ∧ (h &&& 0x70#8 = 0x10#8 ↔ 0x10 ≤ h.toNat ∧ h.toNat ≤ 0x1F)
    ∧ (h &&& 0x77#8 = 0x11#8 ↔ h.toNat = 0x11 ∨ h.toNat = 0x19)
    ∧ (h &&& 0x76#8 = 0x12#8 ↔ h.toNat = 0x12 ∨ h.toNat = 0x13 ∨ h.toNat = 0x1A ∨ h.toNat = 0x1B)
    ∧ (h &&& 0x60#8 = 0x00#8 ↔ h.toNat ≤ 0x1F) := by decide

/-- The values of a low byte that each class mask lets through. -/
theorem lowByte_masks : ∀ l : Octet, l.toNat < 0x80 →
    (l &&& 0x70#8 = 0x20#8 ↔ 0x20 ≤ l.toNat ∧ l.toNat ≤ 0x2F)
    ∧ (l &&& 0x70#8 = 0x30#8 ↔ 0x30 ≤ l.toNat ∧ l.toNat ≤ 0x3F)
    ∧ (l &&& 0x40#8 = 0x40#8 ↔ 0x40 ≤ l.toNat)
    ∧ (l &&& 0x60#8 = 0x20#8 ↔ 0x20 ≤ l.toNat ∧ l.toNat ≤ 0x3F) := by decide

/-- R89's list over the two bytes. -/
theorem unclassifiedSet_iff_bytes (s : CapUnit) :
    unclassifiedSet s = true ↔
      ((highByte s).toNat ≤ 0x0F ∧ (lowByte s).toNat ≤ 0x7F ∧ ¬ ((highByte s).toNat = 0 ∧ (lowByte s).toNat = 0))
        ∨ (0x10 ≤ (highByte s).toNat ∧ (highByte s).toNat ≤ 0x1F ∧ (lowByte s).toNat ≤ 0x1F)
        ∨ ((highByte s).toNat ∈ [0x10, 0x16, 0x18, 0x1E] ∧ 0x20 ≤ (lowByte s).toNat ∧ (lowByte s).toNat ≤ 0x3F)
        ∨ ((highByte s).toNat ∈ [0x14, 0x15, 0x17, 0x1C, 0x1D, 0x1F] ∧ 0x30 ≤ (lowByte s).toNat
          ∧ (lowByte s).toNat ≤ 0x3F) := by
  simp only [unclassifiedSet, highByte, lowByte, Bool.and_eq_true, Bool.or_eq_true, decide_eq_true_eq, beq_iff_eq,
    bne_iff_ne, ne_eq, eq_zero_iff_bytes s, List.mem_cons, List.not_mem_nil, or_false]
  omega

/-- The listed set is what the six predicates and padding leave. -/
theorem unclassifiedSet_iff {s : CapUnit} (hs : strip s = s) :
    unclassifiedSet s = true ↔ UnitClass.unclassified.predicate s = true := by
  obtain ⟨hh, hl⟩ := bytes_lt_of_stripped hs
  obtain ⟨h14, h17, h10, h11, h12, h60⟩ := highByte_masks _ hh
  obtain ⟨l20, l30, l40, l60⟩ := lowByte_masks _ hl
  have c14 : s &&& 0x7670#16 = 0x1420#16 ↔ _ := and_unit_iff s 0x76#8 0x70#8 0x14#8 0x20#8
  have c17 : s &&& 0x7770#16 = 0x1720#16 ↔ _ := and_unit_iff s 0x77#8 0x70#8 0x17#8 0x20#8
  have cp : s &&& 0x7040#16 = 0x1040#16 ↔ _ := and_unit_iff s 0x70#8 0x40#8 0x10#8 0x40#8
  have cm : s &&& 0x7770#16 = 0x1120#16 ↔ _ := and_unit_iff s 0x77#8 0x70#8 0x11#8 0x20#8
  have cs : s &&& 0x7770#16 = 0x1130#16 ↔ _ := and_unit_iff s 0x77#8 0x70#8 0x11#8 0x30#8
  have cw : s &&& 0x7660#16 = 0x1220#16 ↔ _ := and_unit_iff s 0x76#8 0x60#8 0x12#8 0x20#8
  have cb : s &&& 0x6000#16 = 0x0000#16 ↔ _ := and_unit_iff s 0x60#8 0x00#8 0x00#8 0x00#8
  rw [unclassifiedSet_iff_bytes]
  simp only [UnitClass.predicate, isControl, isPreamble, isMidRow, isSpecial, isWestEu, isBasic, Bool.and_eq_true,
    Bool.not_eq_true', Bool.or_eq_false_iff, beq_eq_false_iff_ne, bne_eq_false_iff_eq, bne_iff_ne, ne_eq, c14, c17, cp,
    cm, cs, cw, cb, h14, h17, h10, h11, h12, h60, l20, l30, l40, l60, eq_zero_iff_bytes s, BitVec.and_zero, and_true,
    List.mem_cons, List.not_mem_nil, or_false]
  clear h14 h17 h10 h11 h12 h60 l20 l30 l40 l60 c14 c17 cp cm cs cw cb
  generalize (highByte s).toNat = h at hh ⊢
  generalize (lowByte s).toNat = l at hl ⊢
  obtain hlow | hmid | hbasic : h < 0x10 ∨ (0x10 ≤ h ∧ h < 0x20) ∨ 0x20 ≤ h := by omega
  · simp [show ¬ 0x10 ≤ h by omega, show h ≤ 0x0F by omega, show h ≤ 0x1F by omega, show l ≤ 0x7F by omega]
    omega
  · obtain ⟨h10, h20⟩ := hmid
    interval_cases h <;> simp <;> omega
  · omega

theorem strip_of_unclassifiedSet {s : CapUnit} (h : unclassifiedSet s = true) : strip s = s := by
  have key : ∀ b : Octet, b.toNat < 0x80 → b &&& 0x7F#8 = b := by decide
  have hb : (highByte s).toNat < 0x80 ∧ (lowByte s).toNat < 0x80 := by
    simp only [unclassifiedSet_iff_bytes, List.mem_cons, List.not_mem_nil, or_false] at h
    omega
  have hm := (and_unit_iff s 0x7F#8 0x7F#8 (highByte s) (lowByte s)).mpr ⟨key _ hb.1, key _ hb.2⟩
  rwa [unitOfBytes_highByte_lowByte] at hm

/-! ## The decoder gives well-formed instructions, and all of them -/

theorem textPair_eq_bytes (c1 c2 : BitVec 7) : textPair c1 c2 = unitOfBytes (c1.setWidth 8) (c2.setWidth 8) := by
  refine BitVec.eq_of_getLsbD_eq fun i hi => ?_
  rw [unitOfBytes_getLsbD]
  by_cases h8 : i < 8
  · simp [textPair, h8, hi]
  · simp [textPair, h8, hi, show i - 8 < 8 by omega, BitVec.getLsbD_of_ge c2 i (by omega)]

theorem textPair_high (c1 c2 : BitVec 7) : (textPair c1 c2).extractLsb' 8 7 = c1 := by
  refine BitVec.eq_of_getLsbD_eq fun i hi => ?_
  rw [textPair_eq_bytes, BitVec.getLsbD_extractLsb', unitOfBytes_getLsbD]
  simp [hi, show i < 8 by omega]

theorem textPair_low (c1 c2 : BitVec 7) : (textPair c1 c2).extractLsb' 0 7 = c2 := by
  refine BitVec.eq_of_getLsbD_eq fun i hi => ?_
  rw [textPair_eq_bytes, BitVec.getLsbD_extractLsb', unitOfBytes_getLsbD]
  simp [hi, show i < 8 by omega]

/-- Bits 13 and 14 of a pair are bits 5 and 6 of its first byte. -/
theorem textPair_getLsbD (c1 c2 : BitVec 7) {i : Nat} (hi : i < 7) :
    (textPair c1 c2).getLsbD (8 + i) = c1.getLsbD i := by
  conv_rhs => rw [← textPair_high c1 c2, BitVec.getLsbD_extractLsb', decide_eq_true hi, Bool.true_and]

theorem wellFormed_decodeStripped {s : CapUnit} (hs : strip s = s) : (decodeStripped s).wellFormed = true := by
  have hst := stripped_decodeStripped hs
  have hrow := decodeStripped_matches_row s
  have hc := unitClass_decodeStripped hs
  generalize decodeStripped s = i at hrow hst hc
  rw [← hst] at hrow
  cases i with
  | txtA c1 c2 =>
    have hm : textPair c1 c2 &&& 0x2000#16 = 0x2000#16 := hrow
    exact (textPair_getLsbD c1 c2 (i := 5) (by decide)).symm.trans (bit_of_mask hm 13 (by decide))
  | txtB c1 c2 =>
    have hm : textPair c1 c2 &&& 0x6000#16 = 0x4000#16 := hrow
    have h6 := (textPair_getLsbD c1 c2 (i := 6) (by decide)).symm.trans (bit_of_mask hm 14 (by decide))
    have h5 := (textPair_getLsbD c1 c2 (i := 5) (by decide)).symm.trans (bit_of_mask hm 13 (by decide))
    rw [Instr.wellFormed, h6, h5]; rfl
  | uncl st =>
    obtain rfl : st = s := hst
    exact (unclassifiedSet_iff hs).mpr ((classify_eq_iff st _).mp hc.symm)
  | _ => rfl

theorem flagAt_getElem (b : Bool) (p i : Nat) (hi : i < 16) : (flagAt b p)[i] = (b && decide (i = p)) := by
  cases b
  · simp [flagAt]
  · exact BitVec.getElem_twoPow hi

theorem rowSelectField_getLsbD (s : CapUnit) {i : Nat} (hi : i < 4) :
    (rowSelectField s).getLsbD i = if i = 0 then s.getLsbD 5 else s.getLsbD (7 + i) := by
  refine BitVec.getLsbD_append.trans ?_
  interval_cases i <;> simp

/-- A preamble's encoding falls in the preamble row, and each field lies where the decoder reads it. -/
theorem decodeStripped_stripped_pac (chan : Bool) (rs : BitVec 4) (ind : Bool) (a : BitVec 3) (ul : Bool) :
    decodeStripped (Instr.pac chan rs ind a ul).stripped = .pac chan rs ind a ul := by
  have hp : isPreamble (Instr.pac chan rs ind a ul).stripped = true := by
    rw [isPreamble_iff]
    refine BitVec.eq_of_getLsbD_eq fun i hi => ?_
    interval_cases i <;> simp [Instr.stripped, flagAt_getElem]
  rw [decodeStripped_of_isPreamble hp]
  congr 1
  · simp [Instr.stripped, flagAt_getElem]
  · refine BitVec.eq_of_getLsbD_eq fun i hi => ?_
    rw [rowSelectField_getLsbD _ hi]
    interval_cases i <;> simp [Instr.stripped, flagAt_getElem]
  · simp [Instr.stripped, flagAt_getElem]
  · refine BitVec.eq_of_getLsbD_eq fun i hi => ?_
    interval_cases i <;> simp [Instr.stripped, flagAt_getElem]
  · simp [Instr.stripped, flagAt_getElem]

theorem strip_eq_self {s : CapUnit} (h7 : s.getLsbD 7 = false) (h15 : s.getLsbD 15 = false) : strip s = s := by
  refine BitVec.eq_of_getLsbD_eq fun i hi => ?_
  rw [strip_getLsbD]
  by_cases e7 : i = 7
  · rw [e7, h7]; rfl
  · by_cases e15 : i = 15
    · rw [e15, h15]; rfl
    · simp [e7, e15]

theorem strip_textPair (c1 c2 : BitVec 7) : strip (textPair c1 c2) = textPair c1 c2 := by
  rw [textPair_eq_bytes]
  refine strip_eq_self ?_ ?_ <;> rw [unitOfBytes_getLsbD] <;> simp

/-- A well-formed instruction's stripped unit is stripped, and the decoder reads the instruction back from it. -/
theorem stripped_of_wellFormed {i : Instr} (h : i.wellFormed = true) :
    strip i.stripped = i.stripped ∧ decodeStripped i.stripped = i := by
  cases i with
  | rcl chan fld | bs chan fld | aof chan fld | aon chan fld | der chan fld | ru2 chan fld | ru3 chan fld
  | ru4 chan fld | fon chan fld | rdc chan fld | tr chan fld | rtd chan fld | edm chan fld | cr chan fld
  | enm chan fld | eoc chan fld => revert chan fld; decide
  | ctl17_20 chan | to1 chan | to2 chan | to3 chan => revert chan; decide
  | ctl17_24_27 chan k | ctl17_28_2F chan k | spc chan k | we1 chan k | we2 chan k => revert chan k; decide
  | mid chan a ul => revert chan a ul; decide
  | pac chan rs ind a ul =>
    refine ⟨strip_eq_self ?_ ?_, decodeStripped_stripped_pac ..⟩ <;> simp [Instr.stripped, flagAt_getElem]
  | txtA c1 c2 =>
    have h13 : (textPair c1 c2).getLsbD 13 = true := (textPair_getLsbD c1 c2 (by decide)).trans h
    have hm : textPair c1 c2 &&& 0x2000#16 = 0x2000#16 := (and_flag _ 13).trans (by rw [h13]; rfl)
    rw [Instr.stripped, decodeStripped_of_bit13 hm, textPair_high, textPair_low]
    exact ⟨strip_textPair c1 c2, rfl⟩
  | txtB c1 c2 =>
    obtain ⟨h6, h5⟩ : c1.getLsbD 6 = true ∧ c1.getLsbD 5 = false := by simpa [Instr.wellFormed] using h
    have hm : textPair c1 c2 &&& 0x6000#16 = 0x4000#16 := by
      rw [show (0x6000#16) = 1#16 <<< 14 ||| 1#16 <<< 13 from rfl, BitVec.and_or_distrib_left, and_flag, and_flag,
        textPair_getLsbD c1 c2 (i := 6) (by decide), textPair_getLsbD c1 c2 (i := 5) (by decide), h6, h5]
      rfl
    rw [Instr.stripped, decodeStripped_of_bit14 hm, textPair_high, textPair_low]
    exact ⟨strip_textPair c1 c2, rfl⟩
  | pad => exact ⟨rfl, rfl⟩
  | uncl s =>
    have hs := strip_of_unclassifiedSet h
    exact ⟨hs, decodeStripped_of_unclassified hs ((unclassifiedSet_iff hs).mp h)⟩

theorem decode_eq_ok_iff {u : CapUnit} {i : Instr} :
    decode u = .ok i ↔ parityOk u = true ∧ decodeStripped (strip u) = i := by
  unfold decode
  cases parityOk u <;> simp

theorem strip_strip (u : CapUnit) : strip (strip u) = strip u := BitVec.and_assoc _ _ _

/-- Settles O1: the encoding passes parity, and the decoder reads the stripped unit back. -/
theorem decodeOfEncode : Obligations.DecodeOfEncode := by
  intro i h
  refine decode_eq_ok_iff.mpr ⟨parityOk_addParity _, ?_⟩
  obtain ⟨hs, hd⟩ := stripped_of_wellFormed h
  rw [encode, strip_addParity, hs, hd]

/-- A unit that passes parity is its stripped unit with parity added: each byte is the ROM's entry of its low bits. -/
theorem addParity_strip {u : CapUnit} (h : parityOk u = true) : addParity (strip u) = u := by
  obtain ⟨hh, hl⟩ := Bool.and_eq_true_iff.mp h
  have high : (strip u).extractLsb' 8 7 = (highByte u).extractLsb' 0 7 := by
    refine BitVec.eq_of_getLsbD_eq fun i hi => ?_
    rw [BitVec.getLsbD_extractLsb', BitVec.getLsbD_extractLsb', highByte_getLsbD, strip_getLsbD]
    simp [hi, show i < 8 by omega, show 8 + i ≠ 15 by omega, show 8 + i ≠ 7 by omega]
  have low : (strip u).extractLsb' 0 7 = (lowByte u).extractLsb' 0 7 := by
    refine BitVec.eq_of_getLsbD_eq fun i hi => ?_
    rw [BitVec.getLsbD_extractLsb', BitVec.getLsbD_extractLsb', lowByte_getLsbD, strip_getLsbD]
    simp [hi, show i < 8 by omega, show i ≠ 15 by omega, show i ≠ 7 by omega]
  rw [addParity, high, low, beq_iff_eq.mp hh, beq_iff_eq.mp hl, unitOfBytes_highByte_lowByte]

/-- Settles O2: the instruction's stripped unit is the unit's, and parity puts the other two bits back. -/
theorem encodeOfDecode : Obligations.EncodeOfDecode := by
  intro u i h
  obtain ⟨hp, rfl⟩ := decode_eq_ok_iff.mp h
  refine ⟨wellFormed_decodeStripped (strip_strip u), ?_⟩
  rw [encode, stripped_decodeStripped (strip_strip u), addParity_strip hp]

/-- Settles O6: the encoding of padding is 0x8080. -/
theorem paddingIsOneUnit : Obligations.PaddingIsOneUnit := by
  intro u
  refine ⟨fun h => (encodeOfDecode u .pad h).2.symm, ?_⟩
  rintro rfl
  decide

/-- Settles O8: the row by the decoder's tests, the class by the predicates, and well-formedness by the listed set. -/
theorem decoderFollowsOpcodeMap : Obligations.DecoderFollowsOpcodeMap := fun s hs =>
  ⟨decodeStripped_matches_row s, unitClass_decodeStripped hs, wellFormed_decodeStripped hs⟩

/-- Settles O3, by evaluation. -/
theorem specWordsDecode : Obligations.SpecWordsDecode := by
  unfold Obligations.SpecWordsDecode
  decide

/-! ## The bits no handler acts on (D3, D4) -/

/-- The instruction on channel 1 and field 1. -/
def Instr.unmarked : Instr → Instr
  | .rcl _ _ => .rcl false false
  | .bs _ _ => .bs false false
  | .aof _ _ => .aof false false
  | .aon _ _ => .aon false false
  | .der _ _ => .der false false
  | .ru2 _ _ => .ru2 false false
  | .ru3 _ _ => .ru3 false false
  | .ru4 _ _ => .ru4 false false
  | .fon _ _ => .fon false false
  | .rdc _ _ => .rdc false false
  | .tr _ _ => .tr false false
  | .rtd _ _ => .rtd false false
  | .edm _ _ => .edm false false
  | .cr _ _ => .cr false false
  | .enm _ _ => .enm false false
  | .eoc _ _ => .eoc false false
  | .ctl17_20 _ => .ctl17_20 false
  | .to1 _ => .to1 false
  | .to2 _ => .to2 false
  | .to3 _ => .to3 false
  | .ctl17_24_27 _ k => .ctl17_24_27 false k
  | .ctl17_28_2F _ k => .ctl17_28_2F false k
  | .pac _ rs ind a ul => .pac false rs ind a ul
  | .mid _ a ul => .mid false a ul
  | .spc _ k => .spc false k
  | .we1 _ k => .we1 false k
  | .we2 _ k => .we2 false k
  | .txtA c1 c2 => .txtA c1 c2
  | .txtB c1 c2 => .txtB c1 c2
  | .pad => .pad
  | .uncl s => .uncl s

/-- No meaning reads the channel or the field. -/
theorem exec_unmarked (i : Instr) (q : Machine.State) : Machine.exec i.unmarked q = Machine.exec i q := by
  cases i <;> rfl

theorem stripped_pac_xor_chan (chan : Bool) (rs : BitVec 4) (ind : Bool) (a : BitVec 3) (ul : Bool) :
    (Instr.pac chan rs ind a ul).stripped ^^^ 0x0800#16 = (Instr.pac (!chan) rs ind a ul).stripped := by
  refine BitVec.eq_of_getLsbD_eq fun i hi => ?_
  interval_cases i <;> simp [Instr.stripped, flagAt_getElem]

/-- With bit 11 flipped an instruction's unit decodes to the same row and the same other fields. -/
theorem unmarked_of_xor_chan {i : Instr} (hb : i.unitClass ≠ .basic) (hp : i.unitClass ≠ .pad)
    (hu : i.unitClass ≠ .unclassified) : (decodeStripped (i.stripped ^^^ 0x0800#16)).unmarked = i.unmarked := by
  cases i with
  | rcl chan fld | bs chan fld | aof chan fld | aon chan fld | der chan fld | ru2 chan fld | ru3 chan fld
  | ru4 chan fld | fon chan fld | rdc chan fld | tr chan fld | rtd chan fld | edm chan fld | cr chan fld
  | enm chan fld | eoc chan fld => clear hb hp hu; revert chan fld; decide
  | ctl17_20 chan | to1 chan | to2 chan | to3 chan => clear hb hp hu; revert chan; decide
  | ctl17_24_27 chan k | ctl17_28_2F chan k | spc chan k | we1 chan k | we2 chan k =>
    clear hb hp hu; revert chan k; decide
  | mid chan a ul => clear hb hp hu; revert chan a ul; decide
  | pac chan rs ind a ul => rw [stripped_pac_xor_chan, decodeStripped_stripped_pac]; rfl
  | txtA | txtB => exact absurd rfl hb
  | pad => exact absurd rfl hp
  | uncl => exact absurd rfl hu

theorem unmarked_of_xor_field : ∀ (chan fld : Bool) (cmd : BitVec 4),
    (decodeStripped (control14 chan fld cmd ^^^ 0x0100#16)).unmarked =
      (decodeStripped (control14 chan fld cmd)).unmarked := by
  decide

/-- Settles O9: the flipped unit's instruction differs only in the bits no meaning reads. -/
theorem channelAndFieldIgnored : Obligations.ChannelAndFieldIgnored := by
  intro s q hs
  refine ⟨fun hb hp hu => ?_, fun h => ?_⟩
  · rw [← unitClass_decodeStripped hs] at hb hp hu
    have hx := unmarked_of_xor_chan hb hp hu
    rw [stripped_decodeStripped hs] at hx
    rw [← exec_unmarked, hx, exec_unmarked]
  · have hx := unmarked_of_xor_field (s.getLsbD 11) (s.getLsbD 8) (s.extractLsb' 0 4)
    rw [control14_of_group hs h] at hx
    rw [← exec_unmarked, hx, exec_unmarked]

end Sys2Proof

end

/-! Proofs: what an operation leaves, as fields and cells it does not write (10_state.md R40). -/

section

namespace Sys2Proof.Machine

/-! ## Composing frames -/

theorem Field.same_trans {s t u : State} {f : Field} (h1 : f.same s t) (h2 : f.same t u) : f.same s u := by
  cases f <;> exact Eq.trans h2 h1

theorem OnlyFields.trans {ws ws' : List Field} {s t u : State} (h1 : OnlyFields ws s t) (h2 : OnlyFields ws' t u) :
    OnlyFields (ws ++ ws') s u := fun f hf =>
  Field.same_trans (h1 f fun h => hf (List.mem_append_left _ h)) (h2 f fun h => hf (List.mem_append_right _ h))

theorem OnlyFields.mono {ws ws' : List Field} {s t : State} (h : OnlyFields ws s t) (hw : ws ⊆ ws') :
    OnlyFields ws' s t := fun f hf => h f fun x => hf (hw x)

theorem OnlyCells.trans {P : BufSel → Nat → Nat → Prop} {s t u : State} (h1 : OnlyCells P s t) (h2 : OnlyCells P t u) :
    OnlyCells P s u := fun b r c hP => (h2 b r c hP).trans (h1 b r c hP)

theorem OnlyCells.mono {P Q : BufSel → Nat → Nat → Prop} {s t : State} (h : OnlyCells P s t)
    (hPQ : ∀ b r c, P b r c → Q b r c) : OnlyCells Q s t := fun b r c hQ => h b r c fun x => hQ (hPQ b r c x)

theorem onlyCells_of_cells {s t : State} (h : ∀ b, (t.buf b).cells = (s.buf b).cells) : OnlyCells NoCell s t :=
  fun b r c _ => State.cellRead_of_cells s t b r c (h b)

/-! ## The frame of each operation -/

@[simp] theorem State.buf_of_col (s : State) (c : Nat) (b : BufSel) :
    ({ s with col := c } : State).buf b = s.buf b := by
  cases b <;> rfl

theorem State.ret_onlyFields (s : State) (q : Bool) : OnlyFields [] s (s.ret q) := fun f _ => by
  cases f <;> simp [Field.same]

theorem State.edit_onlyFields (s : State) (b : BufSel) (g : Writer → Writer) : OnlyFields [] s (s.edit b g) :=
  fun f _ => by cases f <;> simp [Field.same]

/-- A DisplayState written: the fields named must hold every one that differs. -/
theorem State.setDs_onlyFields {s : State} {b : BufSel} {ds : DisplayState} {ws : List Field}
    (hd : .depth b ∉ ws → ds.rollupDepth = (s.buf b).ds.rollupDepth) (hr : .dsRow b ∉ ws → ds.row = (s.buf b).ds.row)
    (hc : .dsCol b ∉ ws → ds.col = (s.buf b).ds.col) : OnlyFields ws s (s.setDs b ds) := fun f hf => by
  cases f with
  | depth b' =>
    obtain rfl | hb := eq_or_ne b' b
    · simpa [Field.same] using hd hf
    · simp [Field.same, hb]
  | dsRow b' =>
    obtain rfl | hb := eq_or_ne b' b
    · simpa [Field.same] using hr hf
    · simp [Field.same, hb]
  | dsCol b' =>
    obtain rfl | hb := eq_or_ne b' b
    · simpa [Field.same] using hc hf
    · simp [Field.same, hb]
  | _ => simp [Field.same]

theorem State.setDepth_onlyFields (s : State) (b : BufSel) (d : Nat) : OnlyFields [.depth b] s (s.setDepth b d) :=
  State.setDs_onlyFields (by simp) (by simp) (by simp)

theorem State.setDsCol_onlyFields (s : State) (b : BufSel) (c : Nat) : OnlyFields [.dsCol b] s (s.setDsCol b c) :=
  State.setDs_onlyFields (by simp) (by simp) (by simp)

theorem State.setDsCursor_onlyFields (s : State) (b : BufSel) (r c : Nat) :
    OnlyFields [.dsRow b, .dsCol b] s (s.setDsCursor b r c) :=
  State.setDs_onlyFields (by simp) (by simp) (by simp)

theorem State.col_onlyFields (s : State) (c : Nat) : OnlyFields [.col] s { s with col := c } := fun f hf => by
  cases f with
  | col => simp at hf
  | _ => simp [Field.same]

theorem State.active_onlyFields (s : State) (a : Option BufSel) : OnlyFields [.active] s { s with active := a } :=
  fun f hf => by
    cases f with
    | active => simp at hf
    | depth b | dsRow b | dsCol b => cases b <;> rfl
    | _ => rfl

theorem State.establish_onlyFields (s : State) (b : BufSel) (d : Nat) :
    OnlyFields [.active, .depth b] s (s.establish b d) :=
  (s.active_onlyFields (some b)).trans (State.setDepth_onlyFields _ b d)

theorem State.backspace_onlyFields (s : State) (b : BufSel) : OnlyFields [.col] s (s.backspace b) :=
  (s.col_onlyFields (s.col - 1)).trans (State.edit_onlyFields _ b _)

theorem State.writeChar_onlyFields (s : State) (b : BufSel) (idx : Nat) : OnlyFields [.col] s (s.writeChar b idx) :=
  (State.edit_onlyFields s b _).trans (State.col_onlyFields _ _)

theorem State.clearBuffer_onlyFields (s : State) (b : BufSel) : OnlyFields (clearFields s b) s (s.clearBuffer b) := by
  unfold clearFields State.clearBuffer
  split
  · exact (State.edit_onlyFields s b _).trans (State.setDs_onlyFields (by simp) (by simp) (by simp))
  · exact State.edit_onlyFields s b _

theorem State.backspace_onlyCells (s : State) (b : BufSel) :
    OnlyCells (fun b' r c => b' = b ∧ r = s.row ∧ c = s.col - 1) s (s.backspace b) := fun b' r c h => by
  rw [State.backspace_cellRead, if_neg fun x => h ⟨x.1, x.2.1, x.2.2.1⟩]

theorem State.writeChar_onlyCells (s : State) (b : BufSel) (idx : Nat) :
    OnlyCells (fun b' r c => b' = b ∧ r = s.row ∧ c = s.col) s (s.writeChar b idx) := fun b' r c h => by
  rw [State.writeChar_cellRead, if_neg fun x => h ⟨x.1, x.2.1, x.2.2.1⟩]

theorem State.clearBuffer_onlyCells (s : State) (b : BufSel) :
    OnlyCells (fun b' _ _ => b' = b) s (s.clearBuffer b) := fun b' r c h => by
  rw [State.clearBuffer_cellRead, if_neg fun x => h x.1]

/-! ## The other buffer, whole -/

theorem State.setDs_buf_of_ne (s : State) {b b' : BufSel} (hne : b' ≠ b) (ds : DisplayState) :
    (s.setDs b ds).buf b' = s.buf b' := by simp [State.setDs, hne]

theorem State.clearBuffer_buf_of_ne (s : State) {b b' : BufSel} (hne : b' ≠ b) :
    (s.clearBuffer b).buf b' = s.buf b' := by
  unfold State.clearBuffer
  split
  · exact (State.setDs_buf_of_ne _ hne _).trans (s.edit_buf_of_ne hne _)
  · exact s.edit_buf_of_ne hne _

/-! ## Returning -/

theorem State.ret_returns (s : State) (q : Bool) : Returns (s.ret q) q := ⟨rfl, rfl⟩

/-- Returning adds no field. -/
theorem OnlyFields.ret {ws : List Field} {s t : State} (h : OnlyFields ws s t) (q : Bool) : OnlyFields ws s (t.ret q) :=
  (h.trans (t.ret_onlyFields q)).mono (by simp)

end Sys2Proof.Machine

end

/-! Proofs: the mode-establishing and erase commands (41_control.md sections 2, 3 and 5). -/

section

namespace Sys2Proof.Machine

theorem State.establish_establishes {i : Instr} {b : BufSel} {d : Nat}
    (h : ∀ s, exec i s = .next ((s.establish b d).ret false)) : Establishes i b d := fun s =>
  ⟨_, h s, s.establish_active b d, by simp, (s.establish_onlyFields b d).ret false,
    onlyCells_of_cells fun b' => by simp, State.ret_returns _ _, by simp⟩

/-- Settles O31: the five commands are one operation with their buffer and depth. -/
theorem modeCommandsEstablish : Obligations.ModeCommandsEstablish := fun _ _ =>
  ⟨State.establish_establishes fun _ => rfl, State.establish_establishes fun _ => rfl,
    State.establish_establishes fun _ => rfl, State.establish_establishes fun _ => rfl,
    State.establish_establishes fun _ => rfl⟩

theorem State.clearBuffer_erases {i : Instr} {b : BufSel} {q : Bool}
    (h : ∀ s, exec i s = .next ((s.clearBuffer b).ret q)) : Erases i b q := fun s => by
  refine ⟨_, h s, fun r c hr => ?_, s.clearBuffer_onlyCells b, ?_, (s.clearBuffer_onlyFields b).ret q,
    State.ret_returns _ _, s.clearBuffer_changed_iff b⟩
  · rw [State.ret_cellRead, State.clearBuffer_cellRead, if_pos ⟨rfl, hr⟩]
  · simp [DisplayState.zero]

/-- Settles O33: both commands clear a buffer, and return. -/
theorem eraseCommandsClear : Obligations.EraseCommandsClear := fun _ _ =>
  ⟨State.clearBuffer_erases fun _ => rfl, State.clearBuffer_erases fun _ => rfl⟩

/-- What EOC leaves (R156). -/
def State.endOfCaption (s : State) : State :=
  { s.swap.clearBuffer .back with row := 0, col := 0, active := some .back }

theorem State.endOfCaption_front (s : State) : s.endOfCaption.front = s.back :=
  s.swap.clearBuffer_buf_of_ne (b' := .front) (by decide)

theorem State.endOfCaption_back_ds (s : State) :
    s.endOfCaption.back.ds = if s.params.clearResetsDisplayState then DisplayState.zero else s.front.ds :=
  (s.swap.clearBuffer_buf_ds .back .back).trans (by simp [State.buf])

theorem State.endOfCaption_back_cellRead (s : State) {r c : Nat} (h : inRange r c) :
    s.endOfCaption.cellRead .back r c = some Cell.empty :=
  (s.swap.clearBuffer_cellRead .back .back r c).trans (if_pos ⟨rfl, h⟩)

theorem State.endOfCaption_onlyFields (s : State) : OnlyFields ([.row, .col, .active] ++ dsFields) s s.endOfCaption :=
  fun f hf => by
    cases f with
    | active | row | col => simp at hf
    | depth b | dsRow b | dsCol b => cases b <;> simp [dsFields] at hf
    | style => exact s.swap.clearBuffer_style .back
    | underline => exact s.swap.clearBuffer_underline .back
    | last => exact s.swap.clearBuffer_last .back
    | n => exact s.swap.clearBuffer_n .back
    | params => exact s.swap.clearBuffer_params .back
    | input => exact s.swap.clearBuffer_input .back

/-- Settles O32: the buffers are swapped, the new back is cleared, and the cursor and the selector are written. -/
theorem endOfCaptionSwaps : Obligations.EndOfCaptionSwaps := fun _ _ s =>
  ⟨s.endOfCaption.ret true, rfl, s.endOfCaption_front, fun _ _ => s.endOfCaption_back_cellRead, s.endOfCaption_back_ds,
    rfl, rfl, rfl, s.endOfCaption_onlyFields.ret true, State.ret_returns _ _, s.swap.clearBuffer_changed_iff .back⟩

/-- Settles O39: each is the accepted no-op. -/
theorem acceptedNoopsWriteNothing : Obligations.AcceptedNoopsWriteNothing := by
  intro i s h
  cases i with
  | aof | aon | fon | tr | rtd | ctl17_20 | ctl17_24_27 | ctl17_28_2F => rfl
  | rcl | bs | der | ru2 | ru3 | ru4 | rdc | edm | cr | enm | eoc | to1 | to2 | to3 => cases h
  | pac | mid | spc | we1 | we2 | txtA | txtB | pad | uncl => cases h

/-- Settles O48: both return (false, 0) and do nothing else. -/
theorem padAndUnclassifiedIgnored : Obligations.PadAndUnclassifiedIgnored := fun _ _ => ⟨rfl, rfl⟩

end Sys2Proof.Machine

end

/-! Proofs: the cursor and row commands (41_control.md sections 1 and 4). -/

section

namespace Sys2Proof.Machine

@[simp] theorem State.cellRead_of_col (s : State) (c : Nat) (b : BufSel) (r c' : Nat) :
    ({ s with col := c } : State).cellRead b r c' = s.cellRead b r c' :=
  State.cellRead_of_cells _ _ _ _ _ (by simp)

/-! ## CR -/

/-- What CR leaves on the active buffer `b` (R154). -/
def State.carriageReturn (s : State) (b : BufSel) : State :=
  (({ s with col := 0 } : State).rollupShift b s.row (s.buf b).ds.rollupDepth).setDsCol b 0

theorem execCr_eq (chan fld : Bool) (s : State) :
    execCr chan fld s = requireActive s fun b => (s.carriageReturn b).ret false := by
  simp only [execCr, State.carriageReturn, State.buf_of_col]

theorem State.carriageReturn_col (s : State) (b : BufSel) : (s.carriageReturn b).col = 0 := by
  simp [State.carriageReturn, State.rollupShift]

theorem State.carriageReturn_dsCol (s : State) (b : BufSel) : ((s.carriageReturn b).buf b).ds.col = 0 := by
  simp [State.carriageReturn]

theorem State.carriageReturn_onlyFields (s : State) (b : BufSel) :
    OnlyFields [.col, .dsCol b] s (s.carriageReturn b) :=
  ((s.col_onlyFields 0).trans (State.edit_onlyFields _ b _)).trans (State.setDsCol_onlyFields _ b 0)

theorem State.carriageReturn_cellRead (s : State) (b b' : BufSel) (r c : Nat) :
    (s.carriageReturn b).cellRead b' r c =
      if b' = b ∧ inRange r c ∧ s.row + (s.buf b).ds.rollupDepth ≤ 15 ∧ 0 < s.row + (s.buf b).ds.rollupDepth then
        if r = s.row then some Cell.empty
        else if s.row < r ∧ r < s.row + (s.buf b).ds.rollupDepth then s.cellRead b (r - 1) c
        else s.cellRead b' r c
      else s.cellRead b' r c := by
  rw [State.carriageReturn, State.setDsCol, State.setDs_cellRead, State.rollupShift_cellRead]
  simp

theorem State.carriageReturn_changed (s : State) (b : BufSel) :
    (s.carriageReturn b).out.changed = true ↔
      s.out.changed = true ∨ ∃ r c, inRange r c ∧ (s.carriageReturn b).cellRead b r c ≠ s.cellRead b r c := by
  have h := ({ s with col := 0 } : State).rollupShift_changed b s.row (s.buf b).ds.rollupDepth
  simp only [State.carriageReturn, State.setDsCol, State.setDs_cellRead, State.setDs_out]
  simpa using h

/-- Settles O34: the roll-up gives the cells, its edit `changed`. -/
theorem carriageReturnRollsUp : Obligations.CarriageReturnRollsUp := by
  intro chan fld s b h
  refine ⟨_, (execCr_eq chan fld s).trans (requireActive_some s _ b h), s.carriageReturn_col b,
    s.carriageReturn_dsCol b, fun r c hr => ?_, fun b' r c hb => ?_, (s.carriageReturn_onlyFields b).ret false,
    State.ret_returns _ _, s.carriageReturn_changed b⟩
  · rw [State.ret_cellRead, State.carriageReturn_cellRead]
    by_cases hg : s.row + (s.buf b).ds.rollupDepth > 15 ∨ s.row + (s.buf b).ds.rollupDepth = 0
    · rw [if_pos hg, if_neg (by omega)]
    · rw [if_neg hg, if_pos ⟨rfl, hr, by omega, by omega⟩]
  · rw [State.ret_cellRead, State.carriageReturn_cellRead, if_neg fun x => hb x.1]

/-! ## BS -/

/-- Settles O35, by what the backspace leaves. -/
theorem backspaceClearsCell : Obligations.BackspaceClearsCell := by
  intro chan fld s b h
  refine ⟨_, requireActive_some s _ b h, s.backspace_col b, fun hr => ?_, s.backspace_onlyCells b,
    (s.backspace_onlyFields b).ret false, State.ret_returns _ _, s.backspace_changed b⟩
  rw [State.ret_cellRead, State.backspace_cellRead, if_pos ⟨rfl, rfl, rfl, hr⟩]

/-! ## DER -/

theorem State.clearRowFrom_cellRead (s : State) (b b' : BufSel) (r c : Nat) :
    (s.clearCells b s.row s.col 32).cellRead b' r c =
      if b' = b ∧ r = s.row ∧ s.col ≤ c ∧ inRange r c then some Cell.empty else s.cellRead b' r c := by
  rw [State.clearCells_cellRead]
  exact if_congr (and_congr_right fun _ => and_congr_right fun _ => and_congr_right fun _ => by simp) rfl rfl

theorem State.clearRowFrom_changed (s : State) (b : BufSel) :
    (s.clearCells b s.row s.col 32).out.changed = true ↔
      s.out.changed = true ∨ ∃ c, inRange s.row c ∧ s.col ≤ c ∧ s.cellRead b s.row c ≠ some Cell.empty := by
  rw [State.clearCells_changed]
  refine or_congr_right ⟨fun ⟨r, c, hr, hne⟩ => ?_, fun ⟨c, hr, hc, hne⟩ => ⟨s.row, c, hr, ?_⟩⟩
  · rw [State.clearRowFrom_cellRead] at hne
    split at hne
    next x => obtain ⟨-, rfl, hc, -⟩ := x; exact ⟨c, hr, hc, hne.symm⟩
    next => exact absurd rfl hne
  · rw [State.clearRowFrom_cellRead, if_pos ⟨rfl, rfl, hc, hr⟩]
    exact hne.symm

/-- Settles O36, by what clearing the rest of the row leaves. -/
theorem deleteToEndOfRow : Obligations.DeleteToEndOfRow := by
  intro chan fld s b h
  refine ⟨_, requireActive_some s _ b h, fun c hr hc => ?_, fun b' r c hP => ?_,
    (s.edit_onlyFields b _).ret false, State.ret_returns _ _, s.clearRowFrom_changed b⟩
  · rw [State.ret_cellRead, State.clearRowFrom_cellRead, if_pos ⟨rfl, rfl, hc, hr⟩]
  · rw [State.ret_cellRead, State.clearRowFrom_cellRead, if_neg fun x => hP ⟨x.1, x.2.1, x.2.2.1⟩]

/-! ## TO1, TO2, TO3 -/

theorem tabOffset_tabs {i : Instr} {n : Nat} (hi : ∀ s, exec i s = tabOffset n s) : Tabs i n := by
  intro s b h
  refine ⟨_, (hi s).trans (requireActive_some s _ b h), by simp [tabTarget], by simp, ?_,
    onlyCells_of_cells fun b' => by simp, State.ret_returns _ _, by simp⟩
  exact ((s.col_onlyFields _).trans (State.setDsCol_onlyFields _ b _)).ret false

/-- Settles O37: each is a tab of its length. -/
theorem tabOffsetsMoveColumn : Obligations.TabOffsetsMoveColumn := fun _ =>
  ⟨tabOffset_tabs fun _ => rfl, tabOffset_tabs fun _ => rfl, tabOffset_tabs fun _ => rfl⟩

/-! ## Before a mode is established -/

/-- A command that needs a buffer is `RequireActive` and its body. -/
theorem exec_of_needsBuffer {i : Instr} (h : i.needsBuffer = true) (s : State) :
    ∃ k, exec i s = requireActive s k := by
  cases i with
  | bs | der | cr | to1 | to2 | to3 => exact ⟨_, rfl⟩
  | rcl | aof | aon | ru2 | ru3 | ru4 | fon | rdc | tr | rtd | edm | enm | eoc => cases h
  | ctl17_20 | ctl17_24_27 | ctl17_28_2F | pac | mid | spc | we1 | we2 | txtA | txtB | pad | uncl => cases h

/-- Settles O38: with no active buffer the policy alone decides. -/
theorem bufferCommandsBeforeMode : Obligations.BufferCommandsBeforeMode := by
  intro i s hn ha
  obtain ⟨k, hk⟩ := exec_of_needsBuffer hn s
  exact ⟨fun hp => hk.trans (requireActive_ignore s k ha hp), fun hp => hk.trans (requireActive_fault s k ha hp)⟩

end Sys2Proof.Machine

end

/-! Proofs: preamble address codes and mid-row codes (42_preamble_midrow.md). -/

section

namespace Sys2Proof.Machine

/-- What a PAC with a row leaves on the active buffer `b` (R183). -/
def State.preamble (s : State) (b : BufSel) (r : Nat) (ind : Bool) (a : BitVec 3) (ul : Bool) : State :=
  ({ s with row := r, col := pacCol ind a, style := pacStyle ind a, underline := ul } : State).setDsCursor b r
    (pacCol ind a)

theorem execPac_of_row {s : State} {b : BufSel} {rs : BitVec 4} {r : Nat} (chan ind : Bool) (a : BitVec 3) (ul : Bool)
    (h : s.active = some b) (hr : s.params.rowOf rs = some r) :
    execPac chan rs ind a ul s = .next ((s.preamble b r ind a ul).ret false) := by
  rw [execPac, whenActive_some s _ b h, hr]
  rfl

theorem execPac_of_no_row {s : State} {b : BufSel} {rs : BitVec 4} (chan ind : Bool) (a : BitVec 3) (ul : Bool)
    (h : s.active = some b) (hr : s.params.rowOf rs = none) : execPac chan rs ind a ul s = pacInvalidRow s := by
  rw [execPac, whenActive_some s _ b h, hr]

/-- The registers a PAC writes lie outside the buffers. -/
@[simp] theorem State.buf_of_cursor (s : State) (r c : Nat) (st : Style) (ul : Bool) (b : BufSel) :
    ({ s with row := r, col := c, style := st, underline := ul } : State).buf b = s.buf b := by cases b <;> rfl

@[simp] theorem State.buf_of_style (s : State) (st : Style) (ul : Bool) (b : BufSel) :
    ({ s with style := st, underline := ul } : State).buf b = s.buf b := by cases b <;> rfl

theorem State.cursor_onlyFields (s : State) (r c : Nat) (st : Style) (ul : Bool) :
    OnlyFields [.row, .col, .style, .underline] s { s with row := r, col := c, style := st, underline := ul } :=
  fun f hf => by
    cases f with
    | row | col | style | underline => simp at hf
    | _ => simp [Field.same]

theorem State.style_onlyFields (s : State) (st : Style) (ul : Bool) :
    OnlyFields [.style, .underline] s { s with style := st, underline := ul } := fun f hf => by
  cases f with
  | style | underline => simp at hf
  | _ => simp [Field.same]

theorem State.preamble_onlyFields (s : State) (b : BufSel) (r : Nat) (ind : Bool) (a : BitVec 3) (ul : Bool) :
    OnlyFields [.row, .col, .style, .underline, .dsRow b, .dsCol b] s (s.preamble b r ind a ul) :=
  OnlyFields.trans (s.cursor_onlyFields r (pacCol ind a) (pacStyle ind a) ul) (State.setDsCursor_onlyFields _ b r _)

/-- Settles O40, by what the preamble writes. -/
theorem preambleSetsCursor : Obligations.PreambleSetsCursor := by
  intro chan rs ind a ul s b r h hr
  refine ⟨_, execPac_of_row chan ind a ul h hr, ?_, ?_, ?_, ?_, ?_, (s.preamble_onlyFields b r ind a ul).ret false,
    onlyCells_of_cells fun b' => ?_, State.ret_returns _ _, ?_⟩
  · simp [State.preamble]
  · simp [State.preamble, pacCol]
  · simp [State.preamble, pacStyle]
  · simp [State.preamble]
  · simp [State.preamble, pacCol]
  · simp [State.preamble]
  · simp [State.preamble]

/-- Settles O41: with no row the policy alone decides. -/
theorem preambleInvalidRow : Obligations.PreambleInvalidRow := by
  intro chan rs ind a ul s h hr
  obtain ⟨b, hb⟩ := Option.ne_none_iff_exists'.mp h
  have he := execPac_of_no_row chan ind a ul hb hr
  refine ⟨fun hp => he.trans ?_, fun hp => he.trans ?_⟩ <;> rw [pacInvalidRow, hp]
  rfl

/-- Settles O43, by what a mid-row code writes. -/
theorem midRowSetsStyle : Obligations.MidRowSetsStyle := by
  intro chan a ul s b h
  exact ⟨_, whenActive_some s _ b h, rfl, rfl, OnlyFields.ret (s.style_onlyFields a ul) false,
    onlyCells_of_cells fun b' => by simp, State.ret_returns _ _, rfl⟩

end Sys2Proof.Machine

end

/-! Proofs: what the text units write (43_text.md sections 1 and 2). -/

section

namespace Sys2Proof.Machine

/-! ## One character (R201) -/

theorem State.writeChar_cellRead_cursor (s : State) (b : BufSel) (idx : Nat) (h : inRange s.row s.col) :
    (s.writeChar b idx).cellRead b s.row s.col = some (glyphCell s idx) := by
  rw [State.writeChar_cellRead, if_pos ⟨rfl, rfl, rfl, h⟩]
  rfl

theorem State.writeChar_changed_glyph (s : State) (b : BufSel) (idx : Nat) :
    (s.writeChar b idx).out.changed = true ↔
      s.out.changed = true ∨ (inRange s.row s.col ∧ s.cellRead b s.row s.col ≠ some (glyphCell s idx)) :=
  s.writeChar_changed b idx

@[simp] theorem State.retText_col (s : State) (b : BufSel) : (s.retText b).col = s.col := rfl

/-- The text units return the depth's readiness, which no write changes. -/
theorem State.retText_returns {s t : State} {b : BufSel} (h : (t.buf b).ds = (s.buf b).ds) :
    Returns (t.retText b) (decide (0 < (s.buf b).ds.rollupDepth)) := by
  rw [← h]
  exact ⟨rfl, rfl⟩

/-- Settles O44, by what one written character leaves. -/
theorem specialWritesChar : Obligations.SpecialWritesChar := fun _ _ s b h =>
  ⟨_, whenActive_some s _ b h, s.writeChar_cellRead_cursor b _, s.writeChar_col b _, s.writeChar_onlyCells b _,
    (s.writeChar_onlyFields b _).ret _, State.retText_returns (s.writeChar_buf_ds b b _), s.writeChar_changed b _⟩

/-! ## The implicit backspace and a character (R203, R206, R207) -/

/-- What a WE unit leaves on the active buffer `b`. -/
def State.replacePrevious (s : State) (b : BufSel) (idx : Nat) : State := (s.backspace b).writeChar b idx

theorem State.glyphCell_backspace (s : State) (b : BufSel) (idx : Nat) :
    glyphCell (s.backspace b) idx = glyphCell s idx := by simp [glyphCell]

theorem State.replacePrevious_onlyCells (s : State) (b : BufSel) (idx : Nat) :
    OnlyCells (fun b' r c => b' = b ∧ r = s.row ∧ c = s.col - 1) s (s.replacePrevious b idx) :=
  (s.backspace_onlyCells b).trans
    (((s.backspace b).writeChar_onlyCells b idx).mono fun _ _ _ ⟨hb, hr, hc⟩ =>
      ⟨hb, by simpa using hr, by simpa using hc⟩)

theorem State.replacePrevious_cellRead (s : State) (b : BufSel) (idx : Nat) (h : inRange s.row (s.col - 1)) :
    (s.replacePrevious b idx).cellRead b s.row (s.col - 1) = some (glyphCell s idx) := by
  have hw := (s.backspace b).writeChar_cellRead_cursor b idx (by simpa using h)
  rwa [State.backspace_row, State.backspace_col, State.glyphCell_backspace] at hw

/-- The erase and the write both count: the write finds EMPTY. -/
theorem State.replacePrevious_changed (s : State) (b : BufSel) (idx : Nat) :
    (s.replacePrevious b idx).out.changed = true ↔ s.out.changed = true ∨ (inRange s.row (s.col - 1) ∧
      (s.cellRead b s.row (s.col - 1) ≠ some Cell.empty ∨ glyphCell s idx ≠ Cell.empty)) := by
  rw [State.replacePrevious, State.writeChar_changed_glyph, State.backspace_changed, State.backspace_row,
    State.backspace_col, State.glyphCell_backspace, or_assoc, ← and_or_left]
  refine or_congr_right (and_congr_right fun hr => or_congr_right ?_)
  rw [State.backspace_cellRead, if_pos ⟨rfl, rfl, rfl, hr⟩, ne_eq, Option.some_inj]
  exact not_congr eq_comm

theorem westEu_replacesPrevious {i : Instr} {idx : Nat} (hi : ∀ s, exec i s = westEu idx s) :
    ReplacesPrevious i idx := fun s b h =>
  ⟨(s.replacePrevious b idx).retText b, (hi s).trans (whenActive_some s _ b h), s.replacePrevious_cellRead b idx,
    by simp [State.replacePrevious], s.replacePrevious_onlyCells b idx,
    OnlyFields.ret (((s.backspace_onlyFields b).trans (State.writeChar_onlyFields _ b idx)).mono (by simp)) _,
    State.retText_returns (by simp [State.replacePrevious]), s.replacePrevious_changed b idx⟩

/-- Settles O45: both rows are the same replacement, each at its own index. -/
theorem westEuReplacesPrevious : Obligations.WestEuReplacesPrevious := fun _ _ =>
  ⟨westEu_replacesPrevious fun _ => rfl, westEu_replacesPrevious fun _ => rfl⟩

/-! ## A pair of characters (R204) -/

/-- What a pair whose low byte carries a character leaves on the active buffer `b`. -/
def State.writePair (s : State) (b : BufSel) (i1 i2 : Nat) : State := (s.writeChar b i1).writeChar b i2

theorem glyphCell_writeChar (s : State) (b : BufSel) (idx i : Nat) :
    glyphCell (s.writeChar b idx) i = glyphCell s i := by simp [glyphCell]

theorem State.writePair_onlyFields (s : State) (b : BufSel) (i1 i2 : Nat) : OnlyFields [.col] s (s.writePair b i1 i2) :=
  ((s.writeChar_onlyFields b i1).trans (State.writeChar_onlyFields _ b i2)).mono (by simp)

theorem State.writePair_cellRead_second (s : State) (b : BufSel) (i1 i2 : Nat) (h : s.row < 15) :
    (s.writePair b i1 i2).cellRead b s.row (min (s.col + 1) 31) = some (glyphCell s i2) := by
  have hw := (s.writeChar b i1).writeChar_cellRead_cursor b i2 (by simp; omega)
  rwa [State.writeChar_row, State.writeChar_col, glyphCell_writeChar] at hw

theorem State.writePair_cellRead_first (s : State) (b : BufSel) (i1 i2 : Nat) (h : inRange s.row s.col)
    (hc : s.col ≠ 31) : (s.writePair b i1 i2).cellRead b s.row s.col = some (glyphCell s i1) := by
  rw [State.writePair, State.writeChar_cellRead, if_neg, State.writeChar_cellRead_cursor s b i1 h]
  have := h.2
  simp
  omega

theorem State.writePair_onlyCells (s : State) (b : BufSel) (i1 i2 : Nat) :
    OnlyCells (fun b' r c => b' = b ∧ r = s.row ∧ (c = s.col ∨ c = min (s.col + 1) 31)) s (s.writePair b i1 i2) :=
  ((s.writeChar_onlyCells b i1).mono fun _ _ _ ⟨hb, hr, hc⟩ => ⟨hb, hr, Or.inl hc⟩).trans
    (((s.writeChar b i1).writeChar_onlyCells b i2).mono fun _ _ _ ⟨hb, hr, hc⟩ =>
      ⟨hb, by simpa using hr, Or.inr (by simpa using hc)⟩)

/-- The second write finds the first character at column 31, elsewhere what stood there. -/
theorem State.writeChar_cellRead_next (s : State) (b : BufSel) (idx : Nat) (h : s.row < 15) :
    (s.writeChar b idx).cellRead b s.row (min (s.col + 1) 31) = secondFinds s b idx := by
  rw [State.writeChar_cellRead]
  refine if_congr ⟨fun x => ?_, fun x => ⟨rfl, rfl, ?_, h, ?_⟩⟩ rfl rfl
  · have := x.2.2; omega
  · omega
  · omega

theorem State.writePair_changed (s : State) (b : BufSel) (i1 i2 : Nat) :
    (s.writePair b i1 i2).out.changed = true ↔ s.out.changed = true
      ∨ (inRange s.row s.col ∧ s.cellRead b s.row s.col ≠ some (glyphCell s i1))
      ∨ (s.row < 15 ∧ secondFinds s b i1 ≠ some (glyphCell s i2)) := by
  rw [State.writePair, State.writeChar_changed_glyph, State.writeChar_changed_glyph, State.writeChar_row,
    State.writeChar_col, glyphCell_writeChar, or_assoc]
  have hr : inRange s.row (min (s.col + 1) 31) ↔ s.row < 15 := and_iff_left (by omega)
  rw [hr]
  exact or_congr_right (or_congr_right (and_congr_right fun h => by rw [State.writeChar_cellRead_next s b i1 h]))

theorem basicPair_writesPair {i : Instr} {c1 c2 : BitVec 7} (hi : ∀ s, exec i s = basicPair c1 c2 s) :
    WritesPair i c1 c2 := by
  intro s b h
  have he := (hi s).trans (whenActive_some s _ b h)
  by_cases h2 : 0x20 ≤ c2.toNat
  · have hc2 : hasSecondChar c2 = true := by simp [hasSecondChar, h2]; omega
    simp only [hc2, if_true] at he
    refine ⟨_, he, State.retText_returns (by simp), (s.writePair_onlyFields b _ _).ret _, fun hlt => by omega,
      fun _ => ⟨by simp, s.writePair_cellRead_second b _ _, s.writePair_cellRead_first b _ _,
        s.writePair_onlyCells b _ _, s.writePair_changed b _ _⟩⟩
  · have hc2 : hasSecondChar c2 = false := by simp [hasSecondChar]; omega
    simp only [hc2, Bool.false_eq_true, if_false] at he
    refine ⟨_, he, State.retText_returns (by simp), (s.writeChar_onlyFields b _).ret _,
      fun _ => ⟨by simp, s.writeChar_cellRead_cursor b _, s.writeChar_onlyCells b _, s.writeChar_changed b _⟩,
      fun hge => absurd hge h2⟩

/-- Settles O46: both rows are the same pair. -/
theorem basicPairWrites : Obligations.BasicPairWrites := fun _ _ =>
  ⟨basicPair_writesPair fun _ => rfl, basicPair_writesPair fun _ => rfl⟩

end Sys2Proof.Machine

end

/-! Proofs: the frame of every instruction, and the writers of each register (10_state.md R27 to R30, R40). -/

section

namespace Sys2Proof.Machine

/-! ## The frame of a meaning -/

/-- No field outside `ws` and no cell outside `P` is written. -/
def Frame (ws : List Field) (P : BufSel → Nat → Nat → Prop) (s t : State) : Prop := OnlyFields ws s t ∧ OnlyCells P s t

theorem Frame.returned (ws : List Field) (P : BufSel → Nat → Nat → Prop) (s : State) (q : Bool) :
    Frame ws P s (s.ret q) :=
  ⟨(s.ret_onlyFields q).mono (by simp), fun _ _ _ _ => rfl⟩

theorem Frame.noCell {ws : List Field} {P : BufSel → Nat → Nat → Prop} {s t : State} (hf : OnlyFields ws s t)
    (hc : ∀ b, (t.buf b).cells = (s.buf b).cells) : Frame ws P s t :=
  ⟨hf, (onlyCells_of_cells hc).mono fun _ _ _ h => h.elim⟩

theorem State.carriageReturn_onlyCells (s : State) (b : BufSel) :
    OnlyCells (fun b' r _ => b' = b ∧ s.row ≤ r ∧ (r = s.row ∨ r < s.row + (s.buf b).ds.rollupDepth)) s
      (s.carriageReturn b) := fun b' r c hP => by
  rw [State.carriageReturn_cellRead]
  split
  next h => rw [if_neg fun x => hP ⟨h.1, by omega, Or.inl x⟩, if_neg fun x => hP ⟨h.1, by omega, Or.inr x.2⟩]
  next => rfl

theorem State.clearRowFrom_onlyCells (s : State) (b : BufSel) :
    OnlyCells (fun b' r c => b' = b ∧ r = s.row ∧ s.col ≤ c) s (s.clearCells b s.row s.col 32) := fun b' r c hP => by
  rw [State.clearRowFrom_cellRead, if_neg fun x => hP ⟨x.1, x.2.1, x.2.2.1⟩]

/-! ## The frame of the meanings that share a body -/

section

variable {s t : State}

theorem tabOffset_frame {n : Nat} {ws : List Field} {P : BufSel → Nat → Nat → Prop}
    (hws : ∀ b, s.active = some b → ws = [.col, .dsCol b]) (h : tabOffset n s = .next t) : Frame ws P s t := by
  refine requireActive_ensures (Frame ws P s) (fun b hb => ?_) (.returned ws P s false) h
  rw [hws b hb]
  exact .noCell (((s.col_onlyFields _).trans (State.setDsCol_onlyFields _ b _)).ret false) fun b' => by simp

theorem westEu_frame {idx : Nat} {ws : List Field} {P : BufSel → Nat → Nat → Prop}
    (hws : ∀ b, s.active = some b → ws = [.col]) (hP : ∀ b, s.active = some b → P b s.row (s.col - 1))
    (h : westEu idx s = .next t) : Frame ws P s t := by
  refine whenActive_ensures (Frame ws P s) (fun b hb ht => ?_) (.returned ws P s false) h
  cases ht
  rw [hws b hb]
  refine ⟨OnlyFields.ret (((s.backspace_onlyFields b).trans (State.writeChar_onlyFields _ b idx)).mono (by simp)) _,
    (s.replacePrevious_onlyCells b idx).mono ?_⟩
  rintro _ _ _ ⟨rfl, rfl, rfl⟩
  exact hP _ hb

theorem basicPair_frame {c1 c2 : BitVec 7} {ws : List Field} {P : BufSel → Nat → Nat → Prop}
    (hws : ∀ b, s.active = some b → ws = [.col]) (hP1 : ∀ b, s.active = some b → P b s.row s.col)
    (hP2 : ∀ b, s.active = some b → hasSecondChar c2 = true → P b s.row (min (s.col + 1) 31))
    (h : basicPair c1 c2 s = .next t) : Frame ws P s t := by
  refine whenActive_ensures (Frame ws P s) (fun b hb ht => ?_) (.returned ws P s false) h
  cases ht
  rw [hws b hb]
  split
  next h2 =>
    refine ⟨(s.writePair_onlyFields b _ _).ret _, (s.writePair_onlyCells b _ _).mono ?_⟩
    rintro _ _ _ ⟨rfl, rfl, rfl | rfl⟩
    · exact hP1 _ hb
    · exact hP2 _ hb h2
  next =>
    refine ⟨(s.writeChar_onlyFields b _).ret _, (s.writeChar_onlyCells b _).mono ?_⟩
    rintro _ _ _ ⟨rfl, rfl, rfl⟩
    exact hP1 _ hb

theorem execPac_frame {chan : Bool} {rs : BitVec 4} {ind : Bool} {a : BitVec 3} {ul : Bool} {ws : List Field}
    {P : BufSel → Nat → Nat → Prop}
    (hws : ∀ b, s.active = some b → ws = [.row, .col, .style, .underline, .dsRow b, .dsCol b])
    (h : execPac chan rs ind a ul s = .next t) : Frame ws P s t := by
  refine whenActive_ensures (Frame ws P s) (fun b hb ht => ?_) (.returned ws P s false) h
  rw [hws b hb]
  split at ht
  next =>
    obtain ⟨-, rfl⟩ := pacInvalidRow_next ht
    exact .returned _ P s false
  next r _ =>
    cases ht
    exact .noCell ((s.preamble_onlyFields b r ind a ul).ret false) fun b' => by simp

/-! ## The frame of an instruction -/

/-- An instruction writes only the fields its row lists and the cells its rule computes. -/
theorem exec_frame {i : Instr} (h : exec i s = .next t) : Frame (i.mayWrite s) (i.mayWriteCell s) s t := by
  cases i with
  | rcl | rdc | ru2 | ru3 | ru4 =>
    cases h
    exact .noCell ((s.establish_onlyFields _ _).ret false) fun b => by simp
  | edm | enm =>
    cases h
    exact ⟨(s.clearBuffer_onlyFields _).ret _, s.clearBuffer_onlyCells _⟩
  | eoc =>
    cases h
    exact ⟨s.endOfCaption_onlyFields.ret true, fun _ _ _ hP => absurd trivial hP⟩
  | aof | aon | fon | tr | rtd | ctl17_20 | ctl17_24_27 | ctl17_28_2F | pad | uncl =>
    cases h
    exact .returned _ _ s false
  | bs =>
    refine requireActive_ensures (Frame _ _ s) (fun b hb => ?_) (.returned _ _ s false) h
    refine ⟨((s.backspace_onlyFields b).ret false).mono (by simp [Instr.mayWrite, hb]),
      (s.backspace_onlyCells b).mono ?_⟩
    rintro _ _ _ ⟨rfl, hr, hc⟩
    exact ⟨hb, hr, hc⟩
  | der =>
    refine requireActive_ensures (Frame _ _ s) (fun b hb => ?_) (.returned _ _ s false) h
    refine ⟨((s.edit_onlyFields b _).ret false).mono (by simp), (s.clearRowFrom_onlyCells b).mono ?_⟩
    rintro _ _ _ ⟨rfl, hr, hc⟩
    exact ⟨hb, hr, hc⟩
  | cr chan fld =>
    refine requireActive_ensures (Frame _ _ s) (fun b hb => ?_) (.returned _ _ s false)
      ((execCr_eq chan fld s).symm.trans h)
    refine ⟨((s.carriageReturn_onlyFields b).ret false).mono (by simp [Instr.mayWrite, hb]),
      (s.carriageReturn_onlyCells b).mono ?_⟩
    rintro _ _ _ ⟨rfl, hr⟩
    exact ⟨hb, hr⟩
  | to1 | to2 | to3 => exact tabOffset_frame (fun b hb => by simp [Instr.mayWrite, hb]) h
  | pac chan => exact execPac_frame (chan := chan) (fun b hb => by simp [Instr.mayWrite, hb]) h
  | mid chan a ul =>
    refine whenActive_ensures (Frame _ _ s) (fun b hb ht => ?_) (.returned _ _ s false) h
    cases ht
    exact .noCell (by simpa [Instr.mayWrite, hb] using OnlyFields.ret (s.style_onlyFields a ul) false) fun b' => by simp
  | spc =>
    refine whenActive_ensures (Frame _ _ s) (fun b hb ht => ?_) (.returned _ _ s false) h
    cases ht
    refine ⟨((s.writeChar_onlyFields b _).ret _).mono (by simp [Instr.mayWrite, hb]),
      (s.writeChar_onlyCells b _).mono ?_⟩
    rintro _ _ _ ⟨rfl, hr, hc⟩
    exact ⟨hb, hr, hc⟩
  | we1 | we2 =>
    exact westEu_frame (fun b hb => by simp [Instr.mayWrite, hb]) (fun b hb => ⟨hb, rfl, rfl⟩) h
  | txtA | txtB =>
    exact basicPair_frame (fun b hb => by simp [Instr.mayWrite, hb]) (fun b hb => ⟨hb, rfl, Or.inl rfl⟩)
      (fun b hb h2 => ⟨hb, rfl, Or.inr ⟨h2, rfl⟩⟩) h

/-! ## Who writes the cursor, style and underline -/

theorem row_not_mem_mayWrite {i : Instr} (h : i.setsRow = false) (s : State) : Field.row ∉ i.mayWrite s := by
  unfold Instr.mayWrite
  split <;> simp_all [Instr.setsRow, clearFields]

theorem col_not_mem_mayWrite {i : Instr} (h : i.movesColumn = false) (s : State) : Field.col ∉ i.mayWrite s := by
  unfold Instr.mayWrite
  split <;> simp_all [Instr.movesColumn, Instr.isText, Instr.unitClass, clearFields]

theorem style_not_mem_mayWrite {i : Instr} (h : i.setsStyle = false) (s : State) :
    Field.style ∉ i.mayWrite s ∧ Field.underline ∉ i.mayWrite s := by
  unfold Instr.mayWrite
  split <;> simp_all [Instr.setsStyle, clearFields, dsFields]

/-- An instruction that sets no row leaves the cursor row (R27). -/
theorem exec_row {i : Instr} (h : exec i s = .next t) (hi : i.setsRow = false) : t.row = s.row :=
  (exec_frame h).1 .row (row_not_mem_mayWrite hi s)

end

/-! ## The statements -/

/-- Settles O30, by the frame of each meaning. -/
theorem instrWritesOnlyItsOwn : Obligations.InstrWritesOnlyItsOwn := fun _ _ _ h => exec_frame h

/-- Settles O28, by the frame: the column is in no other instruction's row. -/
theorem columnWriters : Obligations.ColumnWriters := fun _ s _ h hi =>
  (exec_frame h).1 .col (col_not_mem_mayWrite hi s)

/-- Settles O29: the frame, and the cell that `WriteChar` leaves. -/
theorem underlineWriters : Obligations.UnderlineWriters := by
  refine ⟨fun i s t h hi => ?_, fun s b idx h => s.writeChar_cellRead_cursor b idx h⟩
  obtain ⟨hst, hul⟩ := style_not_mem_mayWrite hi s
  exact ⟨(exec_frame h).1 .underline hul, (exec_frame h).1 .style hst⟩

end Sys2Proof.Machine

end

/-! Proofs: the outcomes and the outputs of a decode step (40_decode_step.md sections 2, 3 and 5). -/

section

namespace Sys2Proof.Machine

section

variable {s t : State} {u : CapUnit} {rest : List PortInput} {i : Instr}

/-! ## A decode step, by whether its unit is dropped -/

/-- A decode step drops its unit, or is its instruction's. -/
theorem step_unit_cases (hi : s.input = .unit u :: rest) (h : step s = .next t) :
    ((parityOk u = false ∨ Duplicate s u) ∧ t = Dropped s rest) ∨
      (parityOk u = true ∧ ¬ Duplicate s u ∧ exec (decodeStripped (strip u)) (Noted s u rest) = .next t) := by
  by_cases hd : parityOk u = false ∨ Duplicate s u
  · rw [step_eq_dropped hi hd] at h
    cases h
    exact Or.inl ⟨hd, rfl⟩
  · obtain ⟨hp, hn⟩ := not_or.mp hd
    have hp' : parityOk u = true := by simpa using hp
    rw [step_eq_exec hi hp' hn] at h
    exact Or.inr ⟨hp', hn, h⟩

/-- A decode step leaves the stream behind its unit and counts it. -/
theorem step_unit_input_n (hi : s.input = .unit u :: rest) (h : step s = .next t) : t.input = rest ∧ t.n = s.n + 1 := by
  obtain ⟨-, rfl⟩ | ⟨-, -, he⟩ := step_unit_cases hi h
  · exact ⟨rfl, rfl⟩
  · have hf := exec_stepFields he
    simp only [State.stepFields, Prod.mk.injEq] at hf
    obtain ⟨-, hn, -, hin⟩ := hf
    exact ⟨hin, hn⟩

theorem step_rst (hi : s.input = .rst :: rest) : step s = .next { State.resetWith s.params with input := rest } := by
  simp [step, hi, State.takeReset]

/-! ## How an instruction ends (60_exceptions.md R273) -/

/-- The instruction is a preamble address code whose row select has no row. -/
def NoRowPreamble (i : Instr) (s : State) : Prop :=
  ∃ chan rs ind a ul, i = .pac chan rs ind a ul ∧ s.params.rowOf rs = none

/-- The three ends of an instruction, the two stops each under its policy. -/
def EndsClosed (i : Instr) (s : State) : Prop :=
  (∃ t, exec i s = .next t)
  ∨ (exec i s = .fault .preModeBufferCommand ∧ s.params.preModePolicy = .fault ∧ s.active = none ∧ i.needsBuffer = true)
  ∨ (exec i s = .refused .pacRowInvalid ∧ s.params.pacInvalidRowPolicy = .refuse ∧ s.active ≠ none ∧ NoRowPreamble i s)

theorem whenActive_next_of_total (s : State) {k : BufSel → Host.Outcome State Fault Refusal}
    (hk : ∀ b, ∃ t, k b = .next t) : ∃ t, whenActive s k = .next t := by
  cases ha : s.active with
  | none => exact ⟨_, whenActive_none s k ha⟩
  | some b => rw [whenActive_some s k b ha]; exact hk b

theorem endsClosed_of_needsBuffer (h : i.needsBuffer = true) (s : State) : EndsClosed i s := by
  obtain ⟨k, hk⟩ := exec_of_needsBuffer h s
  cases ha : s.active with
  | some b => exact Or.inl ⟨_, hk.trans (requireActive_some s k b ha)⟩
  | none =>
    cases hp : s.params.preModePolicy with
    | ignore => exact Or.inl ⟨_, hk.trans (requireActive_ignore s k ha hp)⟩
    | fault => exact Or.inr (Or.inl ⟨hk.trans (requireActive_fault s k ha hp), hp, ha, h⟩)

theorem endsClosed_pac (chan : Bool) (rs : BitVec 4) (ind : Bool) (a : BitVec 3) (ul : Bool) (s : State) :
    EndsClosed (.pac chan rs ind a ul) s := by
  cases ha : s.active with
  | none => exact Or.inl ⟨_, whenActive_none s _ ha⟩
  | some b =>
    cases hr : s.params.rowOf rs with
    | some r => exact Or.inl ⟨_, execPac_of_row chan ind a ul ha hr⟩
    | none =>
      have he : exec (.pac chan rs ind a ul) s = pacInvalidRow s := execPac_of_no_row chan ind a ul ha hr
      cases hp : s.params.pacInvalidRowPolicy with
      | ignore => exact Or.inl ⟨_, he.trans (by rw [pacInvalidRow, hp])⟩
      | refuse =>
        exact Or.inr (Or.inr ⟨he.trans (by rw [pacInvalidRow, hp]), hp, by simp [ha], chan, rs, ind, a, ul, rfl, hr⟩)

theorem exec_endsClosed (i : Instr) (s : State) : EndsClosed i s := by
  cases i with
  | bs | der | cr | to1 | to2 | to3 => exact endsClosed_of_needsBuffer rfl s
  | pac => exact endsClosed_pac ..
  | mid | spc | we1 | we2 | txtA | txtB => exact Or.inl (whenActive_next_of_total s fun _ => ⟨_, rfl⟩)
  | rcl | aof | aon | ru2 | ru3 | ru4 | fon | rdc | tr | rtd | edm | enm | eoc => exact Or.inl ⟨_, rfl⟩
  | ctl17_20 | ctl17_24_27 | ctl17_28_2F | pad | uncl => exact Or.inl ⟨_, rfl⟩

/-- A preamble decoded from a unit has the unit's row select. -/
theorem rowSelect_of_decodeStripped_pac {v : CapUnit} (hv : strip v = v) {chan : Bool} {rs : BitVec 4} {ind : Bool}
    {a : BitVec 3} {ul : Bool} (h : decodeStripped v = .pac chan rs ind a ul) :
    classify v = .pac ∧ rowSelectField v = rs := by
  have hc : classify v = .pac := by rw [← unitClass_decodeStripped hv, h]; rfl
  rw [decodeStripped_of_isPreamble ((classify_eq_iff v .pac).mp hc)] at h
  cases h
  exact ⟨hc, rfl⟩

/-! ## What an instruction returns (R131) -/

/-- The step returned: err is 0, and the outputs are valid where they were. -/
def Returned (s t : State) : Prop := t.out.err = false ∧ t.out.valid = s.out.valid

theorem State.ret_returned {w : State} (q : Bool) (h : w.out.valid = s.out.valid) : Returned s (w.ret q) := ⟨rfl, h⟩

theorem execPac_returned {chan : Bool} {rs : BitVec 4} {ind : Bool} {a : BitVec 3} {ul : Bool}
    (h : execPac chan rs ind a ul s = .next t) : Returned s t := by
  refine whenActive_ensures (Returned s) (fun b _ hb => ?_) (State.ret_returned false rfl) h
  split at hb
  next => obtain ⟨-, rfl⟩ := pacInvalidRow_next hb; exact State.ret_returned false rfl
  next => cases hb; exact State.ret_returned false (by simp)

theorem basicPair_returned {c1 c2 : BitVec 7} (h : basicPair c1 c2 s = .next t) : Returned s t := by
  refine whenActive_ensures (Returned s) (fun b _ hb => ?_) (State.ret_returned false rfl) h
  cases hb
  refine State.ret_returned _ ?_
  split <;> simp

/-- Every instruction that takes a next state returns. -/
theorem exec_returned (h : exec i s = .next t) : Returned s t := by
  have hret : Returned s (s.ret false) := State.ret_returned false rfl
  cases i with
  | rcl | rdc | ru2 | ru3 | ru4 | edm | enm | eoc => cases h; exact State.ret_returned _ (by simp)
  | aof | aon | fon | tr | rtd | ctl17_20 | ctl17_24_27 | ctl17_28_2F | pad | uncl => cases h; exact hret
  | bs | der | cr | to1 | to2 | to3 =>
    exact requireActive_ensures (Returned s)
      (fun b _ => State.ret_returned false (by simp [State.clearCells, State.rollupShift])) hret h
  | pac chan => exact execPac_returned (chan := chan) h
  | mid => exact whenActive_ensures (Returned s) (fun b _ hb => by cases hb; exact State.ret_returned false rfl) hret h
  | spc | we1 | we2 =>
    exact whenActive_ensures (Returned s) (fun b _ hb => by cases hb; exact State.ret_returned _ (by simp)) hret h
  | txtA | txtB => exact basicPair_returned h

/-- After a decode step the outputs are valid and err is 0. -/
theorem step_unit_out (hi : s.input = .unit u :: rest) (h : step s = .next t) :
    t.out.err = false ∧ t.out.valid = true := by
  obtain ⟨-, rfl⟩ | ⟨-, -, he⟩ := step_unit_cases hi h
  · exact ⟨rfl, rfl⟩
  · exact exec_returned he

/-! ## When an instruction is ready (R129, R165, R202) -/

theorem execPac_not_ready {chan : Bool} {rs : BitVec 4} {ind : Bool} {a : BitVec 3} {ul : Bool}
    (h : execPac chan rs ind a ul s = .next t) : t.out.ready = false := by
  refine whenActive_ensures (fun t => t.out.ready = false) (fun b _ hb => ?_) rfl h
  split at hb
  next => obtain ⟨-, rfl⟩ := pacInvalidRow_next hb; rfl
  next => cases hb; rfl

/-- Outside the text units only EDM and EOC are ready. -/
theorem exec_ready_of_not_text (ht : i.isText = false) (h : exec i s = .next t) : t.out.ready = i.isDisplayEvent := by
  cases i with
  | rcl | rdc | ru2 | ru3 | ru4 | edm | enm | eoc => cases h; rfl
  | aof | aon | fon | tr | rtd | ctl17_20 | ctl17_24_27 | ctl17_28_2F | pad | uncl => cases h; rfl
  | bs | der | cr | to1 | to2 | to3 =>
    exact requireActive_ensures (fun t => t.out.ready = false) (fun b _ => rfl) rfl h
  | pac chan => exact execPac_not_ready (chan := chan) h
  | mid => exact whenActive_ensures (fun t => t.out.ready = false) (fun b _ hb => by cases hb; rfl) rfl h
  | spc | we1 | we2 | txtA | txtB => cases ht

/-- A text unit is ready exactly with an active buffer whose depth is positive. -/
theorem exec_ready_of_text (ht : i.isText = true) (h : exec i s = .next t) :
    t.out.ready = true ↔ ∃ b, s.active = some b ∧ 0 < (t.buf b).ds.rollupDepth := by
  cases ha : s.active with
  | none =>
    have hc : i.unitClass ≠ .control := fun hc => by simp [Instr.isText, hc] at ht
    rw [exec_of_no_mode ha hc] at h
    cases h
    simp
  | some b =>
    obtain ⟨t', he, hr, -⟩ := textReadiness i s b ht ha
    cases he.symm.trans h
    simp [hr]

theorem Instr.isDisplayEvent_of_text (ht : i.isText = true) : i.isDisplayEvent = false := by
  cases i with
  | edm | eoc => cases ht
  | _ => rfl

theorem exec_ready (h : exec i s = .next t) :
    t.out.ready = true ↔ i.isDisplayEvent = true
      ∨ (i.isText = true ∧ ∃ b, s.active = some b ∧ 0 < (t.buf b).ds.rollupDepth) := by
  cases ht : i.isText with
  | false => simp [exec_ready_of_not_text ht h]
  | true => simp [exec_ready_of_text ht h, Instr.isDisplayEvent_of_text ht]

/-! ## Repeated commands (40_decode_step.md section 5) -/

/-- A unit the step drops whatever it is, while the last recorded unit stays: noise, or a copy of that unit. -/
def Idle (s : State) (u : CapUnit) : Prop := parityOk u = false ∨ strip u = 0#16 ∨ Duplicate s u

theorem step_idle (hi : s.input = .unit u :: rest) (h : Idle s u) : step s = .next (Dropped s rest) := by
  by_cases hd : parityOk u = false ∨ Duplicate s u
  · exact step_eq_dropped hi hd
  · obtain ⟨hp, hn⟩ := not_or.mp hd
    exact paddingDrops s u rest hi (by simpa using hp) (h.resolve_left hp |>.resolve_right hn)

/-- A run of idle units moves the count, the stream and the outputs. -/
theorem runSteps_idle (us : List CapUnit) (hne : us ≠ []) (hi : s.input = us.map PortInput.unit ++ rest)
    (h : ∀ u ∈ us, Idle s u) :
    runSteps us.length s =
      .next { s with n := s.n + us.length, input := rest, out := ⟨true, false, false, false⟩ } := by
  induction us generalizing s with
  | nil => exact absurd rfl hne
  | cons u us ih =>
    have hstep : step s = .next (Dropped s (us.map PortInput.unit ++ rest)) := step_idle hi (h u (by simp))
    rw [List.length_cons, runSteps, hstep]
    cases us with
    | nil => rfl
    | cons v vs =>
      refine (ih (s := Dropped s _) (by simp) rfl fun w hw => h w (List.mem_cons_of_mem u hw)).trans ?_
      simp [Dropped, Nat.add_assoc, Nat.add_comm 1]

/-- After a step on a unit, another copy of it is idle if it is CONTROL or SPECIAL. -/
theorem idle_of_step (hi : s.input = .unit u :: rest)
    (hc : classify (strip u) = .control ∨ classify (strip u) = .special) (h : step s = .next t) : Idle t u := by
  cases hp : parityOk u with
  | false => exact Or.inl hp
  | true =>
    have h0 : strip u ≠ 0#16 := fun h0 => by
      rw [h0] at hc
      exact absurd hc (by decide)
    refine Or.inr (Or.inr ⟨hc, ?_⟩)
    obtain ⟨hd, rfl⟩ | ⟨-, hn, -⟩ := step_unit_cases hi h
    · exact (hd.resolve_left (by simp [hp])).2
    · exact (stepRecordsUnit s t u rest hi hp h0 hn h).symm

end

/-! ## The statements -/

/-- Settles O10: the decoded instruction is the stripped unit's, past the first checks. -/
theorem stepRunsDecoded : Obligations.StepRunsDecoded := by
  intro s u rest i hi hdec hd
  obtain ⟨hp, rfl⟩ := decode_eq_ok_iff.mp hdec
  exact step_eq_exec hi hp hd

/-- Settles O16: a reset, a drop and an instruction each leave the rest of the stream. -/
theorem streamReadForward : Obligations.StreamReadForward := by
  refine ⟨fun s t x rest hi h => ?_, fun hi lo => ⟨highByte_unitOfBytes hi lo, lowByte_unitOfBytes hi lo⟩⟩
  cases x with
  | unit u => exact (step_unit_input_n hi h).1
  | rst =>
    rw [step_rst hi] at h
    cases h
    rfl

/-- Settles O17: the unit is counted before the first checks, and nothing else writes the count. -/
theorem stepCountsUnits : Obligations.StepCountsUnits := fun _ _ _ _ hi h => (step_unit_input_n hi h).2

/-- Settles O21: the step is the reset. -/
theorem resetEventResets : Obligations.ResetEventResets := fun _ _ hi => step_rst hi

/-- Settles O19: a dropped unit has a next state, and an executed one ends as its instruction. -/
theorem stepOutcomesClosed : Obligations.StepOutcomesClosed := by
  intro s u rest hi
  by_cases hd : parityOk u = false ∨ Duplicate s u
  · exact Or.inl ⟨_, step_eq_dropped hi hd⟩
  · obtain ⟨hp, hn⟩ := not_or.mp hd
    rw [step_eq_exec hi (by simpa using hp) hn]
    obtain hnext | hfault | ⟨he, hpol, ha, chan, rs, ind, a, ul, hpac, hrow⟩ := exec_endsClosed _ (Noted s u rest)
    · exact Or.inl hnext
    · exact Or.inr (Or.inl hfault)
    · obtain ⟨hc, rfl⟩ := rowSelect_of_decodeStripped_pac (strip_strip u) hpac
      exact Or.inr (Or.inr ⟨he, hpol, ha, hc, hrow⟩)

/-- Settles O18: the ports by the outputs, the next state because both stops need another policy. -/
theorem decodeNeverErrs : Obligations.DecodeNeverErrs := by
  intro s u rest hi
  refine ⟨fun t h => ?_, fun hpre hpac => ?_⟩
  · obtain ⟨herr, hvalid⟩ := step_unit_out hi h
    refine ⟨herr, by simp [State.errPort, herr, hvalid], by simp [State.readyPort, hvalid], ?_⟩
    simp [State.changedPort, hvalid, paramsNeverWritten s t h]
  · obtain hnext | ⟨-, hp, -⟩ | ⟨-, hp, -⟩ := stepOutcomesClosed s u rest hi
    · exact hnext
    · simp [hpre] at hp
    · simp [hpac] at hp

/-- Settles O49: a dropped unit is not ready, an executed one as its instruction is. -/
theorem readyExactlyWhen : Obligations.ReadyExactlyWhen := by
  intro s t u rest hi h
  obtain ⟨hd, rfl⟩ | ⟨hp, hn, he⟩ := step_unit_cases hi h
  · refine iff_of_false Bool.false_ne_true fun ⟨hp, hn, _⟩ => ?_
    exact hd.elim (fun x => by simp [x] at hp) hn
  · rw [exec_ready he, Noted_active]
    exact ⟨fun x => ⟨hp, hn, x⟩, fun x => x.2.2⟩

/-- Settles O50: the noise and the second copy are idle. -/
theorem repeatedControlRunsOnce : Obligations.RepeatedControlRunsOnce := by
  intro s t u noise rest hc hnoise hi h
  have hin : t.input = (noise ++ [u]).map PortInput.unit ++ rest := by
    simpa using (step_unit_input_n hi h).1
  have hidle : ∀ v ∈ noise ++ [u], Idle t v := fun v hv => by
    obtain hv | hv := List.mem_append.mp hv
    · exact (hnoise v hv).imp_right Or.inl
    · obtain rfl := List.mem_singleton.mp hv
      exact idle_of_step hi hc h
  simpa using runSteps_idle (noise ++ [u]) (by simp) hin hidle

end Sys2Proof.Machine

end

/-! Proofs: the invariant (10_state.md section 5), the fresh decoder and the roll-up window (45_snapshot.md). -/

section

namespace Sys2Proof.Machine

/-! ## Cells that are canonical and hold scalar values -/

/-- What `FrameBuffer.Ok` asks of the cells. -/
def Memory.Ok (m : Memory) : Prop := Memory.wf m ∧ ∀ e ∈ m, e.2.legal

theorem Memory.kept_ok : Writer.Kept Memory.Ok :=
  ⟨fun m k v hm hk hv => ⟨Memory.kept_wf.write m k v hm.1 hk hv,
    (Memory.kept_all Cell.legal (by decide)).write m k v hm.2 hk hv⟩⟩

theorem Memory.ok_set {m : Memory} {k : Nat} {v : Cell} (hm : Memory.Ok m) (hk : k < 480) (hv : v.legal) :
    Memory.Ok (Memory.set m k v) := by
  refine ⟨Memory.wf_set m k v hm.1 hk, fun e he => ?_⟩
  obtain rfl | he := Memory.mem_set m k v e he
  · exact hv
  · exact hm.2 e he

theorem Writer.ok_write {w : Writer} {r c : Nat} {v : Cell} (hw : Memory.Ok w.cells) (hv : v.legal) :
    Memory.Ok (w.write r c v).cells := by
  unfold Writer.write
  split
  next h => exact Memory.ok_set hw (cellAddr_lt h) hv
  next => exact hw

/-- Every glyph of legal parameters is a scalar value. -/
theorem Params.isScalar_lookup {p : Params} (hp : p.Legal) (idx : Nat) : isScalar (p.lookup idx) = true := by
  obtain ⟨-, hall, -, -, hrep, -⟩ := hp
  rw [Params.lookup, List.getD_eq_getElem?_getD]
  cases h : p.charTable[idx]? with
  | none => exact hrep
  | some g => exact List.all_eq_true.mp hall g (List.mem_of_getElem? h)

theorem Params.rowOf_lt {p : Params} (hp : p.Legal) {rs : BitVec 4} {r : Nat} (h : p.rowOf rs = some r) : r < 15 := by
  obtain ⟨-, -, -, hrow, -⟩ := hp
  rw [Params.rowOf, List.getD_eq_getElem?_getD] at h
  cases hm : p.rowMap[rs.toNat]? with
  | none => simp [hm] at h
  | some o =>
    rw [hm] at h
    obtain rfl : o = some r := h
    exact hrow r (List.mem_of_getElem? hm)

/-! ## The invariant through each operation -/

section

variable {s t : State} {i : Instr}

theorem State.Inv.buf (h : s.Inv) (b : BufSel) : (s.buf b).Ok s.params := by
  cases b
  · exact h.front
  · exact h.back

/-- The invariant from its parts, the buffers taken together. -/
theorem State.Inv.of_buf (hp : s.params.Legal) (hr : s.row < 15) (hc : s.params.tabClamp = true → s.col < 32)
    (hb : ∀ b, (s.buf b).Ok s.params) (hl : strip s.last = s.last) (he : s.out.err = false) : s.Inv :=
  ⟨hp, hr, hc, hb .front, hb .back, hl, he⟩

theorem State.Inv.ret (h : s.Inv) (q : Bool) : (s.ret q).Inv := ⟨h.params, h.row, h.col, h.front, h.back, h.last, rfl⟩

theorem State.Inv.edit (h : s.Inv) (b : BufSel) {g : Writer → Writer}
    (hg : ∀ w : Writer, Memory.Ok w.cells → Memory.Ok (g w).cells) : (s.edit b g).Inv := by
  refine .of_buf (by simpa using h.params) (by simpa using h.row) (by simpa using h.col) (fun b' => ?_)
    (by simpa using h.last) h.err
  obtain ⟨hwf, hlegal, hds⟩ := h.buf b'
  have hm : Memory.Ok ((s.edit b g).buf b').cells := by
    rw [State.edit_buf_cells]
    split
    next hb => subst hb; exact hg _ ⟨hwf, hlegal⟩
    next => exact ⟨hwf, hlegal⟩
  exact ⟨hm.1, hm.2, by simpa using hds⟩

theorem State.Inv.cellWrite (h : s.Inv) (b : BufSel) (r c : Nat) {v : Cell} (hv : v.legal) :
    (s.cellWrite b r c v).Inv := h.edit b fun _ hw => Writer.ok_write hw hv

theorem State.Inv.setDs (h : s.Inv) (b : BufSel) {ds : DisplayState} (hd : ds.rollupDepth ≤ 4) (hr : ds.row < 15)
    (hc : s.params.tabClamp = true → ds.col < 32) : (s.setDs b ds).Inv := by
  refine .of_buf (by simpa using h.params) (by simpa using h.row) (by simpa using h.col) (fun b' => ?_)
    (by simpa using h.last) (by simpa using h.err)
  obtain ⟨hwf, hlegal, hds⟩ := h.buf b'
  refine ⟨by simpa using hwf, by simpa using hlegal, ?_⟩
  rw [State.setDs_buf_ds, State.setDs_params]
  split
  next => exact ⟨hd, hr, hc⟩
  next => exact hds

theorem State.Inv.withCol (h : s.Inv) {c : Nat} (hc : s.params.tabClamp = true → c < 32) :
    ({ s with col := c } : State).Inv := ⟨h.params, h.row, hc, h.front, h.back, h.last, h.err⟩

theorem State.Inv.clearBuffer (h : s.Inv) (b : BufSel) : (s.clearBuffer b).Inv := by
  have he : (s.edit b Writer.clearAll).Inv := h.edit b fun w hw => Writer.kept_clearAll Memory.kept_ok w hw
  unfold State.clearBuffer
  split
  · exact he.setDs b (by decide) (by decide) fun _ => by decide
  · exact he

theorem State.Inv.establish (h : s.Inv) (b : BufSel) {d : Nat} (hd : d ≤ 4) : (s.establish b d).Inv := by
  have ha : ({ s with active := some b } : State).Inv := ⟨h.params, h.row, h.col, h.front, h.back, h.last, h.err⟩
  obtain ⟨-, -, -, hr, hc⟩ := ha.buf b
  exact ha.setDs b hd hr hc

theorem State.Inv.endOfCaption (h : s.Inv) : s.endOfCaption.Inv := by
  have hs : s.swap.Inv := ⟨h.params, h.row, h.col, h.back, h.front, h.last, h.err⟩
  have hc := hs.clearBuffer .back
  exact ⟨hc.params, (by decide : 0 < 15), fun _ => (by decide : 0 < 32), hc.front, hc.back, hc.last, hc.err⟩

theorem State.Inv.backspace (h : s.Inv) (b : BufSel) : (s.backspace b).Inv :=
  (h.withCol fun hc => lt_of_le_of_lt (Nat.sub_le _ _) (h.col hc)).cellWrite b _ _ (by decide)

theorem State.Inv.writeChar (h : s.Inv) (b : BufSel) (idx : Nat) : (s.writeChar b idx).Inv :=
  (h.cellWrite b _ _ (Params.isScalar_lookup h.params idx)).withCol fun _ => by omega

theorem State.Inv.carriageReturn (h : s.Inv) (b : BufSel) : (s.carriageReturn b).Inv := by
  have h0 : ({ s with col := 0 } : State).Inv := h.withCol fun _ => by decide
  have he := h0.edit b (g := fun w => w.rollupShift s.row (s.buf b).ds.rollupDepth)
    fun w hw => Writer.kept_rollupShift Memory.kept_ok w _ _ hw
  obtain ⟨-, -, hd, hr, -⟩ := he.buf b
  exact he.setDs b hd hr fun _ => (by decide : 0 < 32)

theorem tabTarget_lt {p : Params} (hp : p.tabClamp = true) (c n : Nat) : tabTarget p c n < 32 := by
  rw [tabTarget, if_pos hp]; omega

theorem pacCol_lt (ind : Bool) (a : BitVec 3) : pacCol ind a < 32 := by
  unfold pacCol; split <;> omega

theorem State.Inv.preamble (h : s.Inv) (b : BufSel) {r : Nat} (hr : r < 15) (ind : Bool) (a : BitVec 3) (ul : Bool) :
    (s.preamble b r ind a ul).Inv := by
  have hc : ({ s with row := r, col := pacCol ind a, style := pacStyle ind a, underline := ul } : State).Inv :=
    ⟨h.params, hr, fun _ => pacCol_lt ind a, h.front, h.back, h.last, h.err⟩
  obtain ⟨-, -, hd, -⟩ := hc.buf b
  exact hc.setDs b hd hr fun _ => pacCol_lt ind a

/-! ## The invariant through an instruction and a step -/

theorem tabOffset_keepsInv {n : Nat} (hs : s.Inv) (h : tabOffset n s = .next t) : t.Inv := by
  refine requireActive_ensures State.Inv (fun b _ => State.Inv.ret ?_ false) (hs.ret false) h
  have hc := hs.withCol fun hp => tabTarget_lt hp s.col n
  obtain ⟨-, -, hd, hr, -⟩ := hc.buf b
  exact hc.setDs b hd hr fun hp => tabTarget_lt hp s.col n

theorem basicPair_keepsInv {c1 c2 : BitVec 7} (hs : s.Inv) (h : basicPair c1 c2 s = .next t) : t.Inv := by
  refine whenActive_ensures State.Inv (fun b _ hb => ?_) (hs.ret false) h
  cases hb
  refine State.Inv.ret ?_ _
  split
  next => exact (hs.writeChar b _).writeChar b _
  next => exact hs.writeChar b _

theorem execPac_keepsInv {chan : Bool} {rs : BitVec 4} {ind : Bool} {a : BitVec 3} {ul : Bool} (hs : s.Inv)
    (h : execPac chan rs ind a ul s = .next t) : t.Inv := by
  refine whenActive_ensures State.Inv (fun b _ hb => ?_) (hs.ret false) h
  split at hb
  next => obtain ⟨-, rfl⟩ := pacInvalidRow_next hb; exact hs.ret false
  next r hr => cases hb; exact (hs.preamble b (Params.rowOf_lt hs.params hr) ind a ul).ret false

/-- Every instruction keeps the invariant. -/
theorem exec_keepsInv (hs : s.Inv) (h : exec i s = .next t) : t.Inv := by
  have hret := hs.ret false
  cases i with
  | rcl | rdc | ru2 | ru3 | ru4 => cases h; exact (hs.establish _ (by decide)).ret false
  | edm | enm => cases h; exact (hs.clearBuffer _).ret _
  | eoc => cases h; exact hs.endOfCaption.ret true
  | aof | aon | fon | tr | rtd | ctl17_20 | ctl17_24_27 | ctl17_28_2F | pad | uncl => cases h; exact hret
  | bs => exact requireActive_ensures State.Inv (fun b _ => (hs.backspace b).ret false) hret h
  | der =>
    exact requireActive_ensures State.Inv
      (fun b _ => (hs.edit b fun w hw => Writer.kept_clearCells Memory.kept_ok w _ _ _ hw).ret false) hret h
  | cr chan fld =>
    exact requireActive_ensures State.Inv (fun b _ => (hs.carriageReturn b).ret false) hret
      ((execCr_eq chan fld s).symm.trans h)
  | to1 | to2 | to3 => exact tabOffset_keepsInv hs h
  | pac chan => exact execPac_keepsInv (chan := chan) hs h
  | mid =>
    refine whenActive_ensures State.Inv (fun b _ hb => ?_) hret h
    cases hb
    exact ⟨hs.params, hs.row, hs.col, hs.front, hs.back, hs.last, rfl⟩
  | spc =>
    exact whenActive_ensures State.Inv (fun b _ hb => by cases hb; exact (hs.writeChar b _).ret _) hret h
  | we1 | we2 =>
    exact whenActive_ensures State.Inv (fun b _ hb => by cases hb; exact ((hs.backspace b).writeChar b _).ret _) hret h
  | txtA | txtB => exact basicPair_keepsInv hs h

theorem State.resetWith_inv {p : Params} (hp : p.Legal) : (State.resetWith p).Inv :=
  have hb : FrameBuffer.empty.Ok p :=
    ⟨Memory.wf_nil, by simp [FrameBuffer.empty], by decide, by decide, fun _ => by decide⟩
  ⟨hp, (by decide : 0 < 15), fun _ => (by decide : 0 < 32), hb, hb, (by decide : strip 0#16 = 0#16), rfl⟩

theorem State.Inv.dropped (h : s.Inv) (rest : List PortInput) : (Dropped s rest).Inv :=
  ⟨h.params, h.row, h.col, h.front, h.back, h.last, rfl⟩

theorem State.Inv.noted (h : s.Inv) (u : CapUnit) (rest : List PortInput) : (Noted s u rest).Inv := by
  refine ⟨h.params, h.row, h.col, h.front, h.back, ?_, rfl⟩
  show strip (if strip u = 0#16 then s.last else strip u) = if strip u = 0#16 then s.last else strip u
  split
  · exact h.last
  · exact strip_strip u

end

/-! ## The statements -/

/-- Settles O24: a reset meets the invariant, a drop and every instruction keep it. -/
theorem stepKeepsInv : Obligations.StepKeepsInv := by
  intro s t hs h
  obtain ⟨rest, -, rfl⟩ | ⟨u, rest, -, -, rfl⟩ | ⟨u, rest, -, -, -, he⟩ := step_cases h
  · have hr := State.resetWith_inv hs.params
    exact ⟨hr.params, hr.row, hr.col, hr.front, hr.back, hr.last, hr.err⟩
  · exact hs.dropped rest
  · exact exec_keepsInv (hs.noted u rest) he

/-- Settles O27: the row by the frame, its range by the invariant. -/
theorem rowWriters : Obligations.RowWriters :=
  ⟨fun _ _ _ h hi => exec_row h hi, fun _ _ _ hs h => (exec_keepsInv hs h).row⟩

end Sys2Proof.Machine

end

/-! Proofs: the fresh decoder, pop-on isolation and the roll-up window (41_control.md section 2, 45_snapshot.md). -/

section

namespace Sys2Proof.Machine

section

variable {s t : State} {i : Instr}

/-! ## Until a mode is established (R239) -/

/-- Both buffers empty, the registers as reset left them. -/
def State.Fresh (s : State) : Prop :=
  (∀ b r c, inRange r c → s.cellRead b r c = some Cell.empty)
    ∧ s.front.ds = DisplayState.zero ∧ s.back.ds = DisplayState.zero
    ∧ s.row = 0 ∧ s.col = 0 ∧ s.style = 0#3 ∧ s.underline = false

theorem State.preModeFresh_iff (s : State) : s.PreModeFresh ↔ (s.active = none → s.Fresh) := Iff.rfl

theorem State.resetWith_cellRead (p : Params) (b : BufSel) {r c : Nat} (h : inRange r c) :
    (State.resetWith p).cellRead b r c = some Cell.empty := by
  rw [State.cellRead_some _ b r c h]
  cases b <;> rfl

theorem State.resetWith_fresh (p : Params) : (State.resetWith p).Fresh :=
  ⟨fun b _ _ h => State.resetWith_cellRead p b h, rfl, rfl, rfl, rfl, rfl, rfl⟩

theorem State.Fresh.clearBuffer (h : s.Fresh) (b : BufSel) : (s.clearBuffer b).Fresh := by
  obtain ⟨hcells, hfront, hback, hrow, hcol, hst, hul⟩ := h
  refine ⟨fun b' r c hr => ?_, ?_, ?_, ?_⟩
  · rw [State.clearBuffer_cellRead]
    split
    · rfl
    · exact hcells b' r c hr
  · have hds := s.clearBuffer_buf_ds b .front
    rwa [State.buf_front, State.buf_front, hfront, ite_self] at hds
  · have hds := s.clearBuffer_buf_ds b .back
    rwa [State.buf_back, State.buf_back, hback, ite_self] at hds
  · simp [hrow, hcol, hst, hul]

/-- With no active buffer an instruction that selects none returns, perhaps after clearing a buffer. -/
theorem exec_of_no_buffer (ha : s.active = none) (hsel : i.selects = none) (h : exec i s = .next t) :
    t = s.ret false ∨ ∃ b q, t = (s.clearBuffer b).ret q := by
  cases i with
  | edm | enm => cases h; exact Or.inr ⟨_, _, rfl⟩
  | rcl | rdc | ru2 | ru3 | ru4 | eoc => cases hsel
  | aof | aon | fon | tr | rtd | ctl17_20 | ctl17_24_27 | ctl17_28_2F | pad | uncl => cases h; exact Or.inl rfl
  | bs | der | cr | to1 | to2 | to3 =>
    obtain ⟨b, hb, -⟩ | ⟨-, -, ht⟩ := requireActive_next h
    · simp [ha] at hb
    · exact Or.inl ht
  | pac | mid | spc | we1 | we2 | txtA | txtB =>
    cases (whenActive_none s _ ha).symm.trans h
    exact Or.inl rfl

theorem exec_keepsFresh (hs : s.Fresh) (ha : s.active = none) (hsel : i.selects = none) (h : exec i s = .next t) :
    t.Fresh := by
  obtain rfl | ⟨b, q, rfl⟩ := exec_of_no_buffer ha hsel h
  · exact hs
  · exact hs.clearBuffer b

theorem State.snapshot_of_none (h : s.active = none) : s.snapshot = ⟨.unknown, 0, 0, 0, []⟩ := by
  rw [State.snapshot, h]

/-! ## Pop-on isolation (R157) -/

theorem execPac_front {chan : Bool} {rs : BitVec 4} {ind : Bool} {a : BitVec 3} {ul : Bool}
    (ha : s.active = some .back) (h : execPac chan rs ind a ul s = .next t) : t.front = s.front := by
  rw [execPac, whenActive_some s _ _ ha] at h
  split at h
  next => obtain ⟨-, rfl⟩ := pacInvalidRow_next h; rfl
  next => cases h; rfl

/-- While Back is active only the display events and the commands that select Front write the front buffer. -/
theorem exec_front (ha : s.active = some .back) (h : exec i s = .next t) (hd : i.isDisplayEvent = false)
    (hsel : i.selects ≠ some .front) : t.front = s.front := by
  cases i with
  | rcl | aof | aon | fon | tr | rtd | ctl17_20 | ctl17_24_27 | ctl17_28_2F | pad | uncl => cases h; rfl
  | rdc | ru2 | ru3 | ru4 => exact absurd rfl hsel
  | edm | eoc => cases hd
  | enm => cases h; exact s.clearBuffer_buf_of_ne (b := .back) (b' := .front) (by decide)
  | bs | der | cr | to1 | to2 | to3 => cases (requireActive_some s _ _ ha).symm.trans h; rfl
  | pac chan => exact execPac_front (chan := chan) ha h
  | mid | spc | we1 | we2 => cases (whenActive_some s _ _ ha).symm.trans h; rfl
  | txtA | txtB =>
    cases (whenActive_some s _ _ ha).symm.trans h
    split <;> rfl

/-! ## The roll-up window (R240) -/

theorem depth_not_mem_mayWrite (hd : i.isDisplayEvent = false) (hsel : i.selects = none) (s : State) :
    Field.depth .front ∉ i.mayWrite s := by
  unfold Instr.mayWrite
  split <;> simp_all [Instr.isDisplayEvent, Instr.selects, clearFields]

/-- Outside EDM and EOC the front cells an instruction may write are in the cursor row or in the window above it. -/
theorem mayWriteCell_window (hd : i.isDisplayEvent = false) {r c : Nat} (h : i.mayWriteCell s .front r c) :
    s.row ≤ r ∧ (r = s.row ∨ r < s.row + s.front.ds.rollupDepth) := by
  cases i with
  | edm | eoc => cases hd
  | enm => cases h
  | cr => exact h.2
  | bs | we1 | we2 | der | spc | txtA | txtB => exact ⟨h.2.1.ge, Or.inl h.2.1⟩
  | _ => exact h.elim

theorem exec_keepsWindow {k b : Nat} (hk : 1 ≤ k) (hw : RollupWindow k b s) (h : exec i s = .next t)
    (hsel : i.selects = none) (hd : i.isDisplayEvent = false) (hp : i.unitClass ≠ .pac) : RollupWindow k b t := by
  obtain ⟨hfields, hcells⟩ := exec_frame h
  have hrow : i.setsRow = false := by
    cases i with
    | pac => exact absurd rfl hp
    | eoc => cases hd
    | _ => rfl
  refine ⟨?_, ?_, (exec_row h hrow).trans hw.row, hw.fits, fun r c hr hout => ?_⟩
  · rw [exec_active h, hsel]
    exact hw.active
  · exact (hfields (.depth .front) (depth_not_mem_mayWrite hd hsel s)).trans hw.depth
  · rw [hcells .front r c fun hwrite => ?_]
    · exact hw.outside r c hr hout
    · have hwin := mayWriteCell_window hd hwrite
      rw [hw.row, hw.depth] at hwin
      omega

/-- A row with a non-empty cell lies in the window. -/
theorem RollupWindow.rowUsed_mem {k b : Nat} (hw : RollupWindow k b s) {r : Nat} (hr : r < 15)
    (hu : rowUsed s.front r = true) : r ∈ List.range' b k := by
  by_contra hout
  obtain ⟨c, hc, hne⟩ := List.any_eq_true.mp hu
  have hread := hw.outside r c ⟨hr, List.mem_range.mp hc⟩ (by simp at hout; omega)
  rw [State.cellRead_some _ _ _ _ ⟨hr, List.mem_range.mp hc⟩] at hread
  have hcell : s.front.cellAt r c = Cell.empty := Option.some.inj hread
  simp [hcell, Cell.empty] at hne

end

/-! ## The statements -/

/-- Settles O25: a step that leaves no buffer active found none active, and its instruction selected none. -/
theorem stepKeepsPreModeFresh : Obligations.StepKeepsPreModeFresh := by
  intro s t hs h
  refine ⟨?_, State.snapshot_of_none⟩
  rw [State.preModeFresh_iff] at hs ⊢
  intro ht
  obtain ⟨rest, -, rfl⟩ | ⟨u, rest, -, -, rfl⟩ | ⟨u, rest, -, -, -, he⟩ := step_cases h
  · exact State.resetWith_fresh s.params
  · exact hs ht
  · obtain ⟨hsel, ha⟩ : (decodeStripped (strip u)).selects = none ∧ s.active = none := by
      simpa [ht] using (exec_active he).symm
    exact exec_keepsFresh (s := Noted s u rest) (hs ha) ha hsel he

/-- Settles O51: the snapshot is read from the front buffer, and a buffer stays active. -/
theorem popOnIsolation : Obligations.PopOnIsolation := by
  intro i s t ha h hd hsel
  have hfront := exec_front ha h hd hsel
  refine ⟨hfront, ?_⟩
  obtain ⟨b, hb⟩ : ∃ b, t.active = some b := by
    rw [exec_active h, ha]
    cases i.selects <;> exact ⟨_, rfl⟩
  rw [State.snapshot, State.snapshot, ha, hb, hfront, exec_params h]

/-- Settles O58: a drop leaves the window, and an instruction's frame lies inside it. -/
theorem rollupWindowKept : Obligations.RollupWindowKept := by
  intro k b s t u rest hk hw hi h hsel hd hp
  obtain ⟨-, rfl⟩ | ⟨-, -, he⟩ := step_unit_cases hi h
  · exact ⟨hw.active, hw.depth, hw.row, hw.fits, hw.outside⟩
  · have hn : RollupWindow k b (Noted s u rest) := ⟨hw.active, hw.depth, hw.row, hw.fits, hw.outside⟩
    exact exec_keepsWindow (by omega) hn he hsel hd hp

/-- Settles O59: the rows rendered are among the window's. -/
theorem rollupShowsAtMostDepth : Obligations.RollupShowsAtMostDepth := by
  intro k b s hw
  have hsub : (List.range 15).filter (rowUsed s.front) ⊆ List.range' b k := fun r hr => by
    obtain ⟨hr, hu⟩ := List.mem_filter.mp hr
    exact hw.rowUsed_mem (List.mem_range.mp hr) hu
  have hlen := ((List.nodup_range.filter _).subperm hsub).length_le
  simpa [renderLines] using hlen

end Sys2Proof.Machine

end

/-! Proofs: the snapshot, the rendered text and the cell read port (45_snapshot.md). -/

section

namespace Sys2Proof.Machine

section

variable {s t : State}

/-! ## What the snapshot depends on (R232) -/

theorem State.snapshot_of_some {b : BufSel} (h : s.active = some b) :
    s.snapshot = ⟨if 0 < s.front.ds.rollupDepth then .paintOn else .popOn, s.front.ds.rollupDepth,
      15 - s.front.ds.row, s.front.ds.col, render s.params s.front⟩ := by
  rw [State.snapshot, h]

theorem rowUsed_congr {fb fb' : FrameBuffer} {r : Nat} (h : ∀ c, c < 32 → (fb'.cellAt r c).cp = (fb.cellAt r c).cp) :
    rowUsed fb' r = rowUsed fb r := by
  unfold rowUsed
  refine Bool.eq_iff_iff.mpr ?_
  simp only [List.any_eq_true, List.mem_range]
  exact exists_congr fun c => and_congr_right fun hc => by rw [h c hc]

theorem rowText_congr {p : Params} {fb fb' : FrameBuffer} {r : Nat}
    (h : ∀ c, c < 32 → (fb'.cellAt r c).cp = (fb.cellAt r c).cp) : rowText p fb' r = rowText p fb r := by
  unfold rowText
  rw [List.flatMap_def, List.flatMap_def]
  exact congrArg List.flatten (List.map_congr_left fun c hc => by rw [h c (List.mem_range.mp hc)])

theorem renderLines_congr {p : Params} {fb fb' : FrameBuffer}
    (h : ∀ r c, inRange r c → (fb'.cellAt r c).cp = (fb.cellAt r c).cp) : renderLines p fb' = renderLines p fb := by
  unfold renderLines
  have hused : (List.range 15).filter (rowUsed fb') = (List.range 15).filter (rowUsed fb) :=
    List.filter_congr fun r hr => rowUsed_congr fun c hc => h r c ⟨List.mem_range.mp hr, hc⟩
  rw [hused]
  exact congrArg List.reverse (List.map_congr_left fun r hr =>
    rowText_congr fun c hc => h r c ⟨List.mem_range.mp (List.mem_filter.mp hr).1, hc⟩)

/-! ## The lines rendered (R233 to R235) -/

theorem rowUsed_iff (fb : FrameBuffer) (r : Nat) : rowUsed fb r = true ↔ ∃ c, c < 32 ∧ (fb.cellAt r c).cp ≠ 0#21 := by
  simp [rowUsed]

/-- The rows rendered, the highest first. -/
def usedRows (fb : FrameBuffer) : List Nat := ((List.range 15).filter (rowUsed fb)).reverse

theorem mem_usedRows (fb : FrameBuffer) (r : Nat) :
    r ∈ usedRows fb ↔ r < 15 ∧ ∃ c, c < 32 ∧ (fb.cellAt r c).cp ≠ 0#21 := by
  rw [usedRows, List.mem_reverse, List.mem_filter, List.mem_range, rowUsed_iff]

theorem usedRows_pairwise (fb : FrameBuffer) : (usedRows fb).Pairwise (· > ·) :=
  List.pairwise_reverse.mpr (List.pairwise_lt_range.filter _)

theorem rowTextTo_eq (p : Params) (fb : FrameBuffer) (r n : Nat) :
    rowTextTo p fb r n =
      (List.range n).flatMap fun c => if (fb.cellAt r c).cp = 0#21 then p.emptyCellText else [(fb.cellAt r c).cp] := by
  induction n with
  | zero => rfl
  | succ n ih => rw [rowTextTo, ih, List.range_succ, List.flatMap_append, List.flatMap_singleton]

theorem rowText_eq (p : Params) (fb : FrameBuffer) : rowText p fb = fun r => rowTextTo p fb r 32 :=
  funext fun r => (rowTextTo_eq p fb r 32).symm

theorem renderLines_eq (p : Params) (fb : FrameBuffer) :
    renderLines p fb = (usedRows fb).map fun r => rowTextTo p fb r 32 := by
  rw [renderLines, rowText_eq, usedRows, List.map_reverse]

theorem joinLines_eq (br : List CodePoint) (ls : List (List CodePoint)) : joinLines br ls = List.intercalate br ls := by
  induction ls with
  | nil => rfl
  | cons l ls ih =>
    cases ls with
    | nil => simp [joinLines, List.intercalate]
    | cons l' ls' =>
      rw [joinLines, ih]
      · simp [List.intercalate]
      · simp

theorem render_eq (p : Params) (fb : FrameBuffer) :
    render p fb = joinLines p.lineBreak ((usedRows fb).map fun r => rowTextTo p fb r 32) := by
  rw [render, renderLines_eq, joinLines_eq]

/-- Every line is part of the text. -/
theorem mem_joinLines_of_mem {br : List CodePoint} {ls : List (List CodePoint)} {l : List CodePoint} {g : CodePoint}
    (hl : l ∈ ls) (hg : g ∈ l) : g ∈ joinLines br ls := by
  induction ls with
  | nil => cases hl
  | cons l' ls ih =>
    cases ls with
    | nil =>
      obtain rfl := List.mem_singleton.mp hl
      exact hg
    | cons l'' ls' =>
      rw [joinLines, List.mem_append, List.mem_append]
      · obtain rfl | hl := List.mem_cons.mp hl
        · exact Or.inl (Or.inl hg)
        · exact Or.inr (ih hl)
      · simp

/-- A non-empty cell's code point is in its row's text. -/
theorem mem_rowTextTo {p : Params} {fb : FrameBuffer} {r c : Nat} (hc : c < 32) (h : (fb.cellAt r c).cp ≠ 0#21) :
    (fb.cellAt r c).cp ∈ rowTextTo p fb r 32 := by
  rw [rowTextTo_eq, List.mem_flatMap]
  exact ⟨c, List.mem_range.mpr hc, by simp [h]⟩

/-- A buffer renders as nothing exactly when no row has a non-empty cell, whatever EMPTY_CELL_TEXT is. -/
theorem render_eq_nil_iff (p : Params) (fb : FrameBuffer) :
    render p fb = [] ↔ ∀ r c, inRange r c → (fb.cellAt r c).cp = 0#21 := by
  constructor
  · intro h r c hr
    by_contra hne
    have hrow : r ∈ usedRows fb := (mem_usedRows fb r).mpr ⟨hr.1, c, hr.2, hne⟩
    have hline : rowTextTo p fb r 32 ∈ (usedRows fb).map fun r => rowTextTo p fb r 32 := List.mem_map_of_mem hrow
    have hmem : (fb.cellAt r c).cp ∈ render p fb := by
      rw [render_eq]
      exact mem_joinLines_of_mem hline (mem_rowTextTo hr.2 hne)
    rw [h] at hmem
    cases hmem
  · intro h
    have hnil : usedRows fb = [] := List.eq_nil_iff_forall_not_mem.mpr fun r hr => by
      obtain ⟨hr, c, hc, hne⟩ := (mem_usedRows fb r).mp hr
      exact hne (h r c ⟨hr, hc⟩)
    rw [render_eq, hnil]
    rfl

/-! ## The snapshot and its port (R230, R231, R238) -/

theorem Memory.legal_get {m : Memory} (hm : ∀ e ∈ m, e.2.legal) (k : Nat) : (Memory.get m k).legal := by
  obtain h | ⟨e, he, h⟩ := Memory.get_kept m k
  · rw [h]; decide
  · rw [h]; exact hm e he

theorem rowText_isScalar {p : Params} {fb : FrameBuffer} (hp : p.Legal) (hfb : fb.Ok p) (r : Nat) :
    (rowText p fb r).all isScalar = true := by
  obtain ⟨-, -, -, -, -, hempty, -⟩ := hp
  obtain ⟨-, hlegal, -⟩ := hfb
  rw [rowText, List.all_flatMap, List.all_eq_true]
  intro c _
  split
  · exact hempty
  · exact (List.all_cons ..).trans (by rw [FrameBuffer.cellAt, Memory.legal_get hlegal (cellAddr r c)]; rfl)

theorem joinLines_isScalar {br : List CodePoint} {ls : List (List CodePoint)} (hbr : br.all isScalar = true)
    (hls : ∀ l ∈ ls, l.all isScalar = true) : (joinLines br ls).all isScalar = true := by
  induction ls with
  | nil => rfl
  | cons l ls ih =>
    have hl := hls l (by simp)
    cases ls with
    | nil => exact hl
    | cons l' ls' =>
      rw [joinLines, List.all_append, List.all_append, hl, hbr, ih fun x hx => hls x (List.mem_cons_of_mem l hx)]
      · rfl
      · simp

theorem render_isScalar {p : Params} {fb : FrameBuffer} (hp : p.Legal) (hfb : fb.Ok p) :
    (render p fb).all isScalar = true := by
  obtain ⟨-, -, -, -, -, -, hbr⟩ := id hp
  rw [render_eq]
  refine joinLines_isScalar hbr fun l hl => ?_
  obtain ⟨r, -, rfl⟩ := List.mem_map.mp hl
  exact rowTextTo_eq p fb r 32 ▸ rowText_isScalar hp hfb r

theorem Params.colBits_clamp {p : Params} (h : p.tabClamp = true) (extra : Nat) : p.colBits extra = 5 := if_pos h

theorem Params.colBits_no_clamp {p : Params} (h : p.tabClamp = false) (extra : Nat) : p.colBits extra = 6 + extra := by
  rw [Params.colBits, h]; rfl

/-- The zero record fits in any widths. -/
theorem portAgrees_of_none (h : s.active = none) (extra : Nat) : PortAgrees s extra := by
  unfold PortAgrees State.snapPort
  rw [State.snapshot_of_none h, if_pos h]
  exact ⟨rfl, rfl, rfl, iff_of_true rfl rfl, fun ht => ⟨Params.colBits_clamp ht extra, by decide⟩,
    fun hf => Params.colBits_no_clamp hf extra, fun _ => by simp [Snapshot.encode], rfl, rfl⟩

theorem portAgrees_of_some {b : BufSel} (hs : s.Inv) (h : s.active = some b) (extra : Nat) : PortAgrees s extra := by
  obtain ⟨-, -, hd, hr, hc⟩ := hs.front
  have hrow : (BitVec.ofNat 4 (15 - s.front.ds.row)).toNat = 15 - s.front.ds.row := by simp; omega
  unfold PortAgrees State.snapPort
  rw [State.snapshot_of_some h, if_neg (show s.active ≠ none by simp [h])]
  refine ⟨?_, ?_, hrow, ?_, fun ht => ⟨Params.colBits_clamp ht extra, hc ht⟩,
    fun hf => Params.colBits_no_clamp hf extra, fun hlt => ?_, rfl, render_isScalar hs.params hs.front⟩
  · simp only [Snapshot.encode]
    split <;> rfl
  · simp [Snapshot.encode]
    omega
  · refine iff_of_false (fun h0 => ?_) ?_
    · have := hrow.symm.trans (congrArg BitVec.toNat h0)
      simp at this
      omega
    · split <;> simp
  · simp [Snapshot.encode, Nat.mod_eq_of_lt hlt]

end

/-! ## The statements -/

/-- Settles O55: every field is a function of the front's DisplayState and code points. -/
theorem snapshotSeesFrontOnly : Obligations.SnapshotSeesFrontOnly := by
  intro s t hp ha hds hcp
  have hr : render t.params t.front = render s.params s.front := by
    rw [render, render, hp, renderLines_congr hcp]
  cases hs : s.active with
  | none => rw [State.snapshot_of_none hs, State.snapshot_of_none (ha.mpr hs)]
  | some b =>
    obtain ⟨b', hb'⟩ := Option.ne_none_iff_exists'.mp fun hn => by simp [ha.mp hn] at hs
    rw [State.snapshot_of_some hs, State.snapshot_of_some hb', hds, hr]

/-- Settles O56, with the used rows for the list. -/
theorem emptyBufferRendersNothing : Obligations.EmptyBufferRendersNothing := fun p fb =>
  ⟨⟨usedRows fb, usedRows_pairwise fb, mem_usedRows fb, renderLines_eq p fb, render_eq p fb⟩,
    fun _ => render_eq_nil_iff p fb, by simp [renderLines]⟩

/-- Settles O54: no buffer active gives the zero record, a buffer the front's fields, each within its width. -/
theorem snapshotMode : Obligations.SnapshotMode := by
  intro s
  cases h : s.active with
  | none =>
    rw [State.snapshot_of_none h]
    refine ⟨by simp, fun _ => rfl, fun x => absurd rfl x, fun hs => ⟨fun x => absurd rfl x, portAgrees_of_none h⟩⟩
  | some b =>
    rw [State.snapshot_of_some h]
    refine ⟨?_, by simp, fun _ => ⟨?_, ?_, rfl, rfl, rfl, rfl⟩, fun hs => ⟨fun _ => ?_, portAgrees_of_some hs h⟩⟩
    · split <;> simp
    · split <;> simp_all
    · split
      next hd => exact iff_of_false (by simp) (by omega)
      next hd => exact iff_of_true rfl (by omega)
    · obtain ⟨-, -, -, hr, -⟩ := hs.front
      show 1 ≤ 15 - s.front.ds.row ∧ 15 - s.front.ds.row ≤ 15
      omega

/-- Settles O57: a column is always in range, and a row unless it is 15. -/
theorem cellPortReadsBuffers : Obligations.CellPortReadsBuffers := by
  intro s bit r c
  have hc : c.toNat < 32 := c.isLt
  have hr : inRange r.toNat c.toNat ↔ r ≠ 15#4 := by
    have := r.isLt
    rw [inRange, and_iff_left hc, ne_eq, ← BitVec.toNat_inj]
    simp
    omega
  by_cases h : r = 15#4
  · refine ⟨iff_of_true (s.cellRead_none _ _ _ fun x => hr.mp x h) h, fun x => absurd h x⟩
  · have hread := s.cellRead_some (bufOfBit bit) _ _ (hr.mpr h)
    refine ⟨iff_of_false (fun x => ?_) h, fun _ => hread.trans ?_⟩
    · exact absurd (hread.symm.trans x) (by simp)
    · cases bit <;> rfl

end Sys2Proof.Machine

end

/-! Proofs: the default tables and the state after reset (10_state.md section 8, 42_preamble_midrow.md R181, 43_text.md
R214). -/

section

namespace Sys2Proof.Machine

theorem defaultRowMap_lt : ∀ r, some r ∈ defaultRowMap → r < 15 := fun r hr =>
  (show ∀ o ∈ defaultRowMap, ∀ r ∈ o, r < 15 by decide) (some r) hr r rfl

/-- The defaults have the types R9 gives the parameters. -/
theorem Params.default_legal : Params.default.Legal :=
  ⟨by decide +kernel, by decide +kernel, by decide, defaultRowMap_lt, by decide, by decide, by decide⟩

/-- An index past the table gives the replacement glyph (R213). -/
theorem Params.lookup_of_ge {p : Params} {k : Nat} (h : p.charTable.length ≤ k) : p.lookup k = p.replacementGlyph :=
  List.getD_eq_default _ _ h

/-- Settles O42: the two tables entry by entry, and the index past the table by its length. -/
theorem defaultTables : Obligations.DefaultTables := by
  have hlen : Params.default.charTable.length = 176 := by decide +kernel
  refine ⟨Params.default_legal, ?_, ?_, ?_, ?_, ?_, ?_, ?_, ?_, ?_, fun k hk => Params.lookup_of_ge (hlen.trans_le hk)⟩
  all_goals decide +kernel

/-- Settles O20: the cells of the empty buffers, and each register as the record gives it. -/
theorem resetStateValues : Obligations.ResetStateValues :=
  ⟨fun b _ _ h => State.resetWith_cellRead Params.default b h, rfl, rfl, rfl, rfl, rfl, rfl, rfl, rfl, rfl, rfl, rfl,
    rfl, rfl⟩

/-- Settles O23: the default parameters are legal. -/
theorem resetHasInv : Obligations.ResetHasInv := State.resetWith_inv Params.default_legal

end Sys2Proof.Machine

end

/-! Proofs: the envelope extraction (48_envelope_interface.md). -/

section

namespace Sys2Proof.Machine

/-! ## The entries (R252, R253) -/

/-- The tag and the valid flag are the low three bits. -/
theorem entryKept_iff : ∀ e : Octet, entryKept e = true ↔ e &&& 0x07#8 = 0x04#8 := by decide

theorem keptUnits_cons (e : Octet × Octet × Octet) (es : List (Octet × Octet × Octet)) :
    keptUnits (e :: es) = if entryKept e.1 then unitOfBytes e.2.1 e.2.2 :: keptUnits es else keptUnits es := by
  unfold keptUnits
  by_cases h : e.1 &&& 0x07#8 = 0x04#8
  · simp [h, (entryKept_iff e.1).mpr h]
  · simp [h, mt (entryKept_iff e.1).mp h]

theorem envelopeEntries_entryBytes (es : List (Octet × Octet × Octet)) (tail : List Octet) :
    envelopeEntries es.length (entryBytes es ++ tail) = some (keptUnits es, es.length) := by
  induction es with
  | nil => rfl
  | cons e es ih =>
    rw [keptUnits_cons]
    simp only [entryBytes, List.flatMap_cons, List.cons_append, List.nil_append, List.length_cons,
      envelopeEntries] at ih ⊢
    rw [ih]

theorem length_entryBytes (es : List (Octet × Octet × Octet)) : (entryBytes es).length = 3 * es.length := by
  induction es with
  | nil => rfl
  | cons e es ih =>
    simp only [entryBytes, List.flatMap_cons, List.length_append, List.length_cons, List.length_nil] at ih ⊢
    omega

/-- Entries that do not fit in the buffer are not parsed. -/
theorem envelopeEntries_of_short {n : Nat} {l : List Octet} (h : l.length < 3 * n) : envelopeEntries n l = none := by
  induction n generalizing l with
  | zero => omega
  | succ n ih =>
    match l with
    | [] | [_] | [_, _] => rfl
    | _ :: _ :: _ :: rest =>
      have hr : rest.length < 3 * n := by simp at h; omega
      rw [envelopeEntries, ih hr]

/-! ## A whole payload, layer by layer (R252) -/

theorem envelopeBody_entries {hdr res : Octet} {es : List (Octet × Octet × Octet)} (tail : List Octet)
    (h : (hdr.extractLsb' 0 5).toNat = es.length) :
    envelopeBody (hdr :: res :: (entryBytes es ++ tail)) = .ok (keptUnits es) := by
  simp only [envelopeBody, h, envelopeEntries_entryBytes, if_true]

theorem envelopeTyped_three (rest : List Octet) : envelopeTyped (0x03#8 :: rest) = envelopeBody rest := rfl

theorem envelopeTyped_other {t : Octet} (h : t ≠ 0x03#8) (rest : List Octet) : envelopeTyped (t :: rest) = .ok [] :=
  if_neg h

theorem envelopeProvider_47 (rest : List Octet) :
    envelopeProvider (0x00#8 :: 0x2F#8 :: rest) = envelopeTyped rest := rfl

theorem envelopeProvider_49 (rest : List Octet) : envelopeProvider (0x00#8 :: 0x31#8 :: rest) =
    if rest.length < 4 then .structural else envelopeTyped (rest.drop 4) := rfl

theorem envelopeProvider_49_uid {uid : List Octet} (hu : uid.length = 4) (rest : List Octet) :
    envelopeProvider (0x00#8 :: 0x31#8 :: (uid ++ rest)) = envelopeTyped rest := by
  rw [envelopeProvider_49, if_neg (by simp [hu]), ← hu, List.drop_left]

theorem envelopeProvider_other {hi lo : Octet} (h47 : unitOfBytes hi lo ≠ 47#16) (h49 : unitOfBytes hi lo ≠ 49#16)
    (rest : List Octet) : envelopeProvider (hi :: lo :: rest) = .ok [] := by
  simp [envelopeProvider, h47, h49]

/-- Past a country code, in a buffer of the minimum length, comes the provider. -/
theorem extract_countryCode {m : Nat} {head rest : List Octet} (hc : CountryCode head)
    (hm : m ≤ (head ++ rest).length) : extract m (head ++ rest) = envelopeProvider rest := by
  unfold extract
  rw [if_neg (by omega)]
  obtain ⟨cc, hcc, rfl⟩ | ⟨ext, rfl⟩ := hc
  · exact if_neg hcc
  · rfl

theorem extract_of_short {m : Nat} {buf : List Octet} (h : buf.length < m) : extract m buf = .structural := if_pos h

/-! ## A payload cut short, layer by layer -/

/-- Every proper initial part of the bytes is a structural error. -/
def CutsFail (f : List Octet → Extraction) (l : List Octet) : Prop := ∀ k, k < l.length → f (l.take k) = .structural

theorem cutsFail_body {hdr res : Octet} {es : List (Octet × Octet × Octet)}
    (h : (hdr.extractLsb' 0 5).toNat = es.length) : CutsFail envelopeBody (hdr :: res :: entryBytes es) := by
  intro k hk
  match k with
  | 0 | 1 => rfl
  | k + 2 =>
    have hlen : ((entryBytes es).take k).length < 3 * es.length := by
      have := length_entryBytes es
      simp at hk ⊢
      omega
    simp only [List.take_succ_cons, envelopeBody, h, envelopeEntries_of_short hlen]

theorem cutsFail_typed {rest : List Octet} (h : CutsFail envelopeBody rest) :
    CutsFail envelopeTyped (0x03#8 :: rest) := by
  intro k hk
  match k with
  | 0 => rfl
  | k + 1 => exact h k (by simpa using hk)

theorem cutsFail_provider_47 {rest : List Octet} (h : CutsFail envelopeTyped rest) :
    CutsFail envelopeProvider (0x00#8 :: 0x2F#8 :: rest) := by
  intro k hk
  match k with
  | 0 | 1 => rfl
  | k + 2 => exact h k (by simpa using hk)

theorem cutsFail_provider_49 {uid rest : List Octet} (hu : uid.length = 4) (h : CutsFail envelopeTyped rest) :
    CutsFail envelopeProvider (0x00#8 :: 0x31#8 :: (uid ++ rest)) := by
  intro k hk
  match k with
  | 0 | 1 => rfl
  | k + 2 =>
    have hk' : k < 4 + rest.length := by simpa [hu] using hk
    rw [List.take_succ_cons, List.take_succ_cons, envelopeProvider_49]
    split
    · rfl
    next h4 =>
      have hge : 4 ≤ k := by simp [hu] at h4; omega
      rw [List.take_append, List.take_of_length_le (by omega), ← hu, List.drop_left, hu]
      exact h (k - 4) (by omega)

theorem cutsFail_extract {m : Nat} {head rest : List Octet} (hc : CountryCode head)
    (h : CutsFail envelopeProvider rest) : CutsFail (extract m) (head ++ rest) := by
  intro k hk
  unfold extract
  split
  · rfl
  next =>
    obtain ⟨cc, hcc, rfl⟩ | ⟨ext, rfl⟩ := hc
    · match k with
      | 0 => rfl
      | k + 1 => exact (if_neg hcc).trans (h k (by simpa using hk))
    · match k with
      | 0 | 1 => rfl
      | k + 2 => exact h k (by simpa using hk)

/-! ## The statement -/

theorem extract_one (m : Nat) (x : Octet) : extract m [x] = .structural := by
  unfold extract
  split
  · rfl
  · simp only [envelopeProvider, ite_self]

theorem State.presentPayload_ok {s : State} {buf : List Octet} {us : List CapUnit}
    (h : extract s.params.envelopeMinHeader buf = .ok us) : s.presentPayload buf = s.present us := by
  rw [State.presentPayload, h]

theorem State.presentPayload_structural {s : State} {buf : List Octet}
    (h : extract s.params.envelopeMinHeader buf = .structural) : s.presentPayload buf = s := by
  rw [State.presentPayload, h]

/-- Settles O60: each layer's equation in turn, and each layer's cuts. -/
theorem envelopeExtraction : Obligations.EnvelopeExtraction := by
  refine ⟨fun m head uid hdr res es tail hc hu hcount => ?_, fun m head uid hi lo t tail hc hu => ?_,
    fun m buf h => extract_of_short h, extract_one, fun s buf => ⟨fun us h => State.presentPayload_ok h,
    State.presentPayload_structural⟩⟩
  · have hbody := envelopeBody_entries (res := res) tail hcount
    have hcut := cutsFail_typed (cutsFail_body (res := res) hcount)
    simp only [List.append_assoc, List.cons_append, List.nil_append]
    refine ⟨fun hm => ?_, fun hm => ?_, cutsFail_extract hc (cutsFail_provider_47 hcut),
      cutsFail_extract hc (cutsFail_provider_49 hu hcut)⟩
    · rw [extract_countryCode hc hm, envelopeProvider_47, envelopeTyped_three, hbody]
    · rw [extract_countryCode hc hm, envelopeProvider_49_uid hu, envelopeTyped_three, hbody]
  · simp only [List.append_assoc, List.cons_append, List.nil_append]
    refine ⟨fun h47 h49 hm => ?_, fun ht hm => ?_, fun ht hm => ?_⟩
    · rw [extract_countryCode hc hm, envelopeProvider_other h47 h49]
    · rw [extract_countryCode hc hm, envelopeProvider_47, envelopeTyped_other ht]
    · rw [extract_countryCode hc hm, envelopeProvider_49_uid hu, envelopeTyped_other ht]

end Sys2Proof.Machine

end
